-- ==== Sys2Proof/Word.lean ====
section
/-! DEFINITION. The word types of CORE: characters, user words, command and response words. -/

namespace Sys2Proof

/-- A character of a word, and every data byte of CORE, is one 8-bit byte (00_scope.md R17). -/
abbrev Byte := BitVec 8

/-- A user or dictionary word: a finite sequence of bytes of any length, 0 included (00_scope.md R17). -/
abbrev Word := List Byte

/-- A host command is one 16-bit word (00_scope.md R19). -/
abbrev CmdWord := BitVec 16

/-- A response is one 16-bit word (00_scope.md R19). -/
abbrev RspWord := BitVec 16

/-- A dictionary index is an unsigned 11-bit number (00_scope.md R8). -/
abbrev Index := BitVec 11

end Sys2Proof
end

