-- ==== Sys2Proof/Syntax.lean ====
section
/-! DEFINITION. The instructions of CORE: eight host commands (level H) and ten sequencer micro-operations (level S),
one constructor per row of the opcode table (30_encoding.md R83, R84). -/

namespace Sys2Proof

/-- The populated Language variants: a closed set with one member (00_scope.md R16). -/
inductive Language where
  | english
  deriving DecidableEq, Repr

/-- The three decode error kinds (60_exceptions.md R180). -/
inductive ErrKind where
  | wordCount
  | unknownWord
  | checksum
  deriving DecidableEq, Repr

/-- The instructions. The host issues the first eight; the sequencer runs the others inside DECODE. -/
inductive Instr where
  /-- NOP: do nothing (R161). -/
  | nop
  /-- CLR: start a new call (R162). -/
  | clr
  /-- PUTC c: append one character to the word under assembly (R163). -/
  | putc (c : Byte)
  /-- ENDW: close the word under assembly (R164). -/
  | endw
  /-- RESOLVE l: resolve the word under assembly alone; only language code 0 is legal (R109). -/
  | resolve (l : BitVec 4)
  /-- DECODE: run the decoder on the committed phrase (R136). -/
  | decode
  /-- RDST: read the status word (R165). -/
  | rdst
  /-- RDOUT i: read one byte of the result (R166). -/
  | rdout (i : BitVec 5)
  /-- S_COUNT, step 1 (R138). -/
  | sCount
  /-- S_LANGSEL, step 2 (R139). -/
  | sLangsel
  /-- S_RESOLVEW, step 3 (R140). -/
  | sResolvew
  /-- S_PACK, step 4 (R122). -/
  | sPack
  /-- S_SPLIT, step 5 (R142). -/
  | sSplit
  /-- S_CHECK, step 6 (R143). -/
  | sCheck
  /-- S_UNPACK, step 7 (R125). -/
  | sUnpack
  /-- S_DUP, step 8 (R145). -/
  | sDup
  /-- S_FINISH, the action taken on entering DONE, step 9 (R146). -/
  | sFinish
  /-- S_FAIL(kind, pos), the action taken on entering FAIL (R147). -/
  | sFail (kind : ErrKind) (pos : Fin 12)
  deriving DecidableEq, Repr

/-- The bits that select an instruction: a 16-bit word from the host, or the 4-bit `PHASE` (30_encoding.md R80, R84). -/
inductive Encoded where
  | command (w : CmdWord)
  | micro (code : BitVec 4)
  deriving DecidableEq, Repr

/-- Why bits select no instruction. For a command word each of the first three is ILLEGAL (30_encoding.md R85). -/
inductive Reject where
  /-- `op` is 8 to 15. -/
  | reservedOpcode
  /-- An operand bit that must be 0 is 1. -/
  | reservedBits
  /-- RESOLVE with a language code 1 to 15. -/
  | reservedLanguage
  /-- `PHASE` code 0 (IDLE) selects no micro-operation (R84). -/
  | idlePhase
  /-- `PHASE` codes 11 to 15 are reserved (R40, R86). -/
  | reservedPhase
  deriving DecidableEq, Repr

end Sys2Proof
end

