-- ==== Sys2Proof/WellFormed.lean ====
section
/-! DEFINITION. Which instructions are well formed. -/

namespace Sys2Proof

/-- Two rows constrain their operands: RESOLVE's only legal language code is 0 (30_encoding.md R82), and S_FAIL's
position is 0 unless the kind is UnknownWordError (42_mnemonic_decoder.md R147). -/
def Instr.wellFormed : Instr → Bool
  | .resolve l => l == 0
  | .sFail .unknownWord _ => true
  | .sFail _ pos => pos == 0
  | _ => true

/-- The level-H instructions: those the host can issue (30_encoding.md R83, R84). -/
def Instr.isCommand : Instr → Bool
  | .nop | .clr | .putc _ | .endw | .resolve _ | .decode | .rdst | .rdout _ => true
  | _ => false

end Sys2Proof
end

