-- ==== Sys2Proof/Decode.lean ====
section
/-! DEFINITION. Decoding and encoding of command words and of the sequencer's `PHASE` codes (30_encoding.md). -/

namespace Sys2Proof

/-- Field `op`, bits 15:12 of a command word (30_encoding.md R80). -/
def opField (w : CmdWord) : BitVec 4 := w.extractLsb' 12 4

/-- Field `arg`, bits 11:0 of a command word (30_encoding.md R80). -/
def argField (w : CmdWord) : BitVec 12 := w.extractLsb' 0 12

/-- A command whose `arg` must be 0 (30_encoding.md R82, R85). -/
def decodeNoOperand (i : Instr) (arg : BitVec 12) : Except Reject Instr :=
  if arg = 0 then .ok i else .error .reservedBits

/-- PUTC: `arg[11:8] = 0`, `arg[7:0] = c` (30_encoding.md R82, R85). -/
def decodePutc (arg : BitVec 12) : Except Reject Instr :=
  if arg.extractLsb' 8 4 = 0 then .ok (.putc (arg.extractLsb' 0 8)) else .error .reservedBits

/-- RESOLVE: `arg[11:4] = 0`, `arg[3:0] = l`, and of the language codes only 0 is legal (30_encoding.md R82, R85). -/
def decodeResolve (arg : BitVec 12) : Except Reject Instr :=
  if arg.extractLsb' 4 8 = 0 then
    if arg.extractLsb' 0 4 = 0 then .ok (.resolve (arg.extractLsb' 0 4)) else .error .reservedLanguage
  else .error .reservedBits

/-- RDOUT: `arg[11:5] = 0`, `arg[4:0] = i` (30_encoding.md R82, R85). -/
def decodeRdout (arg : BitVec 12) : Except Reject Instr :=
  if arg.extractLsb' 5 7 = 0 then .ok (.rdout (arg.extractLsb' 0 5)) else .error .reservedBits

/-- The opcode map of level H (30_encoding.md R83) with the illegal words of R85, each rejected by name. -/
def decodeCommand (w : CmdWord) : Except Reject Instr :=
  match (opField w).toNat with
  | 0 => decodeNoOperand .nop (argField w)
  | 1 => decodeNoOperand .clr (argField w)
  | 2 => decodePutc (argField w)
  | 3 => decodeNoOperand .endw (argField w)
  | 4 => decodeResolve (argField w)
  | 5 => decodeNoOperand .decode (argField w)
  | 6 => decodeNoOperand .rdst (argField w)
  | 7 => decodeRdout (argField w)
  | _ => .error .reservedOpcode

/-- The micro-operation a `PHASE` code names (30_encoding.md R84). A code has no operand bits: the operands of S_FAIL
(code 10) come from the step that fails and are given here beside the code (42_mnemonic_decoder.md R147). -/
def decodeMicro (code : BitVec 4) (kind : ErrKind) (pos : Fin 12) : Except Reject Instr :=
  match code.toNat with
  | 0 => .error .idlePhase
  | 1 => .ok .sCount
  | 2 => .ok .sLangsel
  | 3 => .ok .sResolvew
  | 4 => .ok .sPack
  | 5 => .ok .sSplit
  | 6 => .ok .sCheck
  | 7 => .ok .sUnpack
  | 8 => .ok .sDup
  | 9 => .ok .sFinish
  | 10 => .ok (.sFail kind pos)
  | _ => .error .reservedPhase

/-- The bits of an instruction (30_encoding.md R82 to R84). -/
def encode : Instr → Encoded
  | .nop => .command 0x0000
  | .clr => .command 0x1000
  | .putc c => .command (0x20#8 ++ c)
  | .endw => .command 0x3000
  | .resolve l => .command (0x400#12 ++ l)
  | .decode => .command 0x5000
  | .rdst => .command 0x6000
  | .rdout i => .command (0x380#11 ++ i)
  | .sCount => .micro 1
  | .sLangsel => .micro 2
  | .sResolvew => .micro 3
  | .sPack => .micro 4
  | .sSplit => .micro 5
  | .sCheck => .micro 6
  | .sUnpack => .micro 7
  | .sDup => .micro 8
  | .sFinish => .micro 9
  | .sFail _ _ => .micro 10

/-- Decoding of either level; `kind` and `pos` are S_FAIL's operands, which no bits carry. -/
def decodeEncoded (e : Encoded) (kind : ErrKind) (pos : Fin 12) : Except Reject Instr :=
  match e with
  | .command w => decodeCommand w
  | .micro code => decodeMicro code kind pos

/-- The operands an S_FAIL carries, and those of S_COUNT's failure for every other instruction. -/
def Instr.failOperands : Instr → ErrKind × Fin 12
  | .sFail kind pos => (kind, pos)
  | _ => (.wordCount, 0)

/-- The host's view of the decoder. A level-H row has 16 bits; a row of at most 8 bits is a level-S row, whose bits
are the `PHASE` code, and S_FAIL is then given the operands S_COUNT fails with (assumption log 5). -/
def decodeTableWord (nbits w : Nat) : Option Instr :=
  if nbits ≤ 8 then
    if w < 16 then (decodeMicro (BitVec.ofNat 4 w) .wordCount 0).toOption else none
  else if w < 2 ^ 16 then (decodeCommand (BitVec.ofNat 16 w)).toOption
  else none

end Sys2Proof
end

