-- ==== Sys2Proof/Config.lean ====
section
/-! DEFINITION. What is fixed for one machine: the hardwired language and the open parameter DICT. -/

namespace Sys2Proof

/-- `LANG`: the selected language, hardwired (10_state.md R31). -/
def Config.LANG : Language := .english

/-- `DICT`: for each populated language the 2048 dictionary words in index order. An open parameter: the spec does
not list the words, so nothing here says what they are (00_scope.md R18, R9; assumption log 1). -/
opaque Config.DICT : Language → Vector Word 2048

end Sys2Proof
end

