-- ==== Sys2Proof/Machine/State.lean ====
section
/-! DEFINITION. The state of one CORE instance, its reset value, and the reasons a step could stop (10_state.md). -/

namespace Sys2Proof.Machine

/-- A word's key as registers hold it: `WLEN` in 0..4 and four bytes (10_state.md R28). -/
structure Key where
  len : Fin 5
  ch : Vector Byte 4
  deriving DecidableEq, Repr

/-- The key with every bit zero, which is the key of the empty word. -/
def Key.empty : Key := ⟨0, Vector.replicate 4 0⟩

/-- `PHASE`, the sequencer state (10_state.md R40); the reserved codes 11 to 15 have no constructor
(93_implementation_defined.md U13). -/
inductive Phase where
  | idle
  | sCount
  | sLangsel
  | sResolvew
  | sPack
  | sSplit
  | sCheck
  | sUnpack
  | sDup
  | done
  | fail
  deriving DecidableEq, Repr

/-- The two refusals at the command port (60_exceptions.md R186). -/
inductive RefuseCode where
  | illegal
  | sequence
  deriving DecidableEq, Repr

/-- The registers of 10_state.md sections 2 to 5, then the command port and the reset input. -/
structure State where
  /-- `WBUF`: the key of the word under assembly (R28). -/
  wbuf : Key
  /-- `PH[0..11]`: the phrase buffer (R29). -/
  ph : Vector Key 12
  /-- `WCNT`: the word counter, 13 meaning 13 or more (R30, R20). -/
  wcnt : Fin 14
  /-- `IDX[0..11]`: the resolved indices (R32). -/
  idx : Vector Index 12
  /-- `BITS`: the bit stream; stream position p is bit 131 - p (R33, R121). -/
  bits : BitVec 132
  /-- `EB[0..15]`: the entropy bytes (R35). -/
  eb : Vector Byte 16
  /-- `WIDX`: the word being resolved (R36). -/
  widx : Fin 12
  /-- `OUT[0..31]`: the entropy output (R37). -/
  out : Vector Byte 32
  /-- `ERR`: the error kind of the last DECODE (R38). -/
  err : Option ErrKind
  /-- `ERRPOS`: the position of the first unknown word (R39). -/
  errpos : Fin 12
  /-- `PHASE`: the sequencer state (R40). -/
  phase : Phase
  /-- `CMDERR`: a command has been refused since hard reset (R42). -/
  cmderr : Bool
  /-- `DICT[0]`: the read-only dictionary memory (R26; assumption log 1). -/
  dict : Vector Word 2048
  /-- Command words presented and not yet accepted, oldest first (43_host_commands.md R160; assumption log 2). -/
  cmds : List CmdWord
  /-- Response words returned, oldest first (43_host_commands.md R160; assumption log 2). -/
  rsps : List RspWord
  /-- Samples of the hard-reset input, one taken per step; none left means not asserted
  (70_reset_and_hazards.md R200; assumption log 3). -/
  rst : List Bool
  deriving DecidableEq, Repr

/-- Nothing stops CORE: every decode error and every refused command is a next state
(43_host_commands.md R160, 93_implementation_defined.md), so no constructor is needed. -/
inductive Fault where
  deriving DecidableEq, Repr

/-- Reasons an instruction has no meaning in the model. -/
inductive Refusal where
  /-- Raised by an arm of `exec` whose instruction has no meaning yet: safe. No arm raises it. -/
  | notModelled (mnemonic : String)
  deriving DecidableEq, Repr

/-- What executing an instruction answers. -/
abbrev Result := Host.Outcome State Fault Refusal

/-- The state after hard reset: every register zero, `PHASE = IDLE` (10_state.md R47); the dictionary is the
parameter `DICT`; nothing at the port. -/
def State.reset : State where
  wbuf := Key.empty
  ph := Vector.replicate 12 Key.empty
  wcnt := 0
  idx := Vector.replicate 12 0
  bits := 0
  eb := Vector.replicate 16 0
  widx := 0
  out := Vector.replicate 32 0
  err := none
  errpos := 0
  phase := .idle
  cmderr := false
  dict := Config.DICT Config.LANG
  cmds := []
  rsps := []
  rst := []

end Sys2Proof.Machine
end

