-- ==== Sys2Proof/Machine/Flags.lean ====
section
/-! DEFINITION. The flags and coded words CORE answers with: register codes, the status word, the RESOLVE answer and
the refusal words (10_state.md sections 5 and 6, 30_encoding.md R81, R82). -/

namespace Sys2Proof.Machine

/-- The 4-bit code of `PHASE` (10_state.md R40). -/
def Phase.code : Phase → BitVec 4
  | .idle => 0
  | .sCount => 1
  | .sLangsel => 2
  | .sResolvew => 3
  | .sPack => 4
  | .sSplit => 5
  | .sCheck => 6
  | .sUnpack => 7
  | .sDup => 8
  | .done => 9
  | .fail => 10

/-- The phases between commands: IDLE, DONE and FAIL (10_state.md R40, R46). -/
def Phase.resting : Phase → Bool
  | .idle | .done | .fail => true
  | _ => false

/-- The 2-bit code of `ERR` (10_state.md R38). -/
def errCode : Option ErrKind → BitVec 2
  | none => 0
  | some .wordCount => 1
  | some .unknownWord => 2
  | some .checksum => 3

/-- `STATUS`: 0, WCNT, CMDERR, ERRPOS, ERR, PHASE from bit 15 down (10_state.md R43). -/
def statusWord (wcnt : Fin 14) (cmderr : Bool) (errpos : Fin 12) (err : Option ErrKind) (phase : Phase) : RspWord :=
  0#1 ++ BitVec.ofNat 4 wcnt.val ++ BitVec.ofBool cmderr ++ BitVec.ofNat 4 errpos.val ++ errCode err ++ phase.code

/-- RESOLVE's answer: bits 15:12 zero, bit 11 `found`, bits 10:0 the index or 0 (30_encoding.md R82). -/
def foundWord : Option Index → RspWord
  | none => 0
  | some i => 0#4 ++ 1#1 ++ i

/-- The response to a refused command: bit 15 and the refusal code (60_exceptions.md R186). -/
def RefuseCode.response : RefuseCode → RspWord
  | .illegal => 0x8001
  | .sequence => 0x8002

/-- The view `STATUS` of a state (10_state.md R43). -/
def State.status (s : State) : RspWord := statusWord s.wcnt s.cmderr s.errpos s.err s.phase

end Sys2Proof.Machine
end

