-- ==== Sys2Proof/Machine/Operands.lean ====
section
/-! DEFINITION. The operand forms of CORE: bytes, words and keys, the phrase slots, the stream's parts, and the
pure functions on them (10_state.md, 40_word_resolver.md section 2, 41_bit_packer_unpacker.md). -/

namespace Sys2Proof.Machine

/-! ### Characters, words and keys -/

/-- `lower` on a byte: ASCII 'A' to 'Z' gets 0x20 added, every other byte is kept (40_word_resolver.md R100). -/
def lower (b : Byte) : Byte :=
  if 0x41 ≤ b.toNat ∧ b.toNat ≤ 0x5A then b + 0x20 else b

/-- `lower` on a word, byte by byte (40_word_resolver.md R100). -/
def lowerWord (w : Word) : Word := w.map lower

/-- Append one character to a key: the fifth and later bytes are dropped (43_host_commands.md R163). -/
def Key.put (k : Key) (c : Byte) : Key :=
  if h : k.len.val < 4 then ⟨⟨k.len.val + 1, by omega⟩, k.ch.set k.len.val c h⟩ else k

/-- `key(w)`: the length cut off at 4 and the first up to four bytes, unused bytes zero (40_word_resolver.md R102). -/
def key (w : Word) : Key :=
  ⟨⟨min w.length 4, by omega⟩, #v[w.getD 0 0, w.getD 1 0, w.getD 2 0, w.getD 3 0]⟩

/-- `lowerkey`: lowercase the bytes of a key (40_word_resolver.md R102). The unused bytes are 0, which `lower` keeps. -/
def lowerKey (k : Key) : Key :=
  ⟨k.len, #v[lower k.ch[0], lower k.ch[1], lower k.ch[2], lower k.ch[3]]⟩

/-- The unused bytes of a key are zero (10_state.md R28). -/
def Key.WF (k : Key) : Prop := ∀ j : Fin 4, k.len.val ≤ j.val → k.ch[j.val] = 0

/-! ### Counters and slots -/

/-- The word counter's next value: it saturates at 13 (00_scope.md R20). -/
def satSucc (n : Fin 14) : Fin 14 := ⟨min (n.val + 1) 13, by omega⟩

/-- ENDW's write to the phrase buffer: slot `WCNT` when there is one (43_host_commands.md R164). -/
def commitSlot (ph : Vector Key 12) (wcnt : Fin 14) (k : Key) : Vector Key 12 :=
  if h : wcnt.val < 12 then ph.set wcnt.val k h else ph

/-- `WIDX + 1`; used below 11 only, so it never wraps (10_state.md R41). -/
def nextSlot (k : Fin 12) : Fin 12 := ⟨(k.val + 1) % 12, by omega⟩

/-! ### The bit stream -/

/-- `pack`: the twelve 11-bit indices one after another, the first at the front (41_bit_packer_unpacker.md R120). -/
def pack (idx : Vector Index 12) : BitVec 132 :=
  idx[0] ++ idx[1] ++ idx[2] ++ idx[3] ++ idx[4] ++ idx[5] ++
    idx[6] ++ idx[7] ++ idx[8] ++ idx[9] ++ idx[10] ++ idx[11]

/-- Stream position p, position 0 the most significant bit of the first index (00_scope.md R24, R121). -/
def streamBit (b : BitVec 132) (p : Nat) : Bool := b.getMsbD p

/-- `ENT = BITS⟨0..128)`, the entropy region (10_state.md R34). -/
def entOf (b : BitVec 132) : BitVec 128 := b.extractLsb' 4 128

/-- `CHK = BITS⟨128..132)`, the checksum region (10_state.md R34). -/
def chkOf (b : BitVec 132) : BitVec 4 := b.extractLsb' 0 4

/-- Byte j of the entropy region: stream positions 8j to 8j + 7 (41_bit_packer_unpacker.md R124). -/
def entByte (e : BitVec 128) (j : Nat) : Byte := e.extractLsb' (8 * (15 - j)) 8

/-- `unpack16`: the entropy region as sixteen bytes (41_bit_packer_unpacker.md R124). -/
def unpack16 (e : BitVec 128) : Vector Byte 16 := Vector.ofFn fun j => entByte e j.val

/-- The duplication rule: sixteen bytes to offset 0 and again to offset 16 (42_mnemonic_decoder.md R145). -/
def duplicate (eb : Vector Byte 16) : Vector Byte 32 := eb ++ eb

/-- A run of bits read as a base-2 number, first bit most significant (41_bit_packer_unpacker.md R123). -/
def bitsToNat (bs : List Bool) : Nat := bs.foldl (fun a b => 2 * a + b.toNat) 0

/-- Consecutive groups of up to `g` bits; the fuel is at least the number of groups. -/
def bitGroups (g : Nat) : Nat → List Bool → List (List Bool)
  | 0, _ => []
  | _ + 1, [] => []
  | fuel + 1, b :: bs => (b :: bs).take g :: bitGroups g fuel ((b :: bs).drop g)

/-- `unpack_bytes(s, g)`: the source's general contract, each group read base 2 and cast to a byte
(41_bit_packer_unpacker.md R123). CORE's hardware builds only `unpack16`. -/
def unpackBytes (s : List Bool) (g : Nat) : List Byte :=
  (bitGroups g s.length s).map fun bs => BitVec.ofNat 8 (bitsToNat bs)

/-- A 128-bit region as a bit string, position 0 first. -/
def bitString (e : BitVec 128) : List Bool := List.ofFn fun p : Fin 128 => e.getMsbD p.val

end Sys2Proof.Machine
end

