-- ==== Sys2Proof/Machine/Ops.lean ====
section
/-! DEFINITION. The named operations over the registers, shared by the meanings: responding, refusing, raising a decode
error (CORE's exception entry) and leaving one, zeroising, word entry, hard reset. -/

namespace Sys2Proof.Machine

/-- The dictionary of a language; English is the only populated one (00_scope.md R16, R18). -/
def State.dictOf (s : State) : Language → Vector Word 2048
  | .english => s.dict

/-- `respond(v)`: return one response word (43_host_commands.md R160). -/
def State.respond (s : State) (v : RspWord) : State := { s with rsps := s.rsps ++ [v] }

/-- `refuse(code)`: set `CMDERR`, answer the code, change nothing else (60_exceptions.md R186). -/
def State.refuse (s : State) (code : RefuseCode) : State := ({ s with cmderr := true } : State).respond code.response

/-- Execute a command where its phase allows it, else refuse it with SEQUENCE (43_host_commands.md R167). -/
def State.gate (s : State) (allowed : Bool) (body : State → State) : Result :=
  .next (if allowed then body s else s.refuse .sequence)

/-- Drop the word under assembly. -/
def State.clearWord (s : State) : State := { s with wbuf := Key.empty }

/-- Append a byte to the word under assembly (43_host_commands.md R163). -/
def State.putByte (s : State) (c : Byte) : State := { s with wbuf := s.wbuf.put c }

/-- Commit the word under assembly: slot, counter, empty `WBUF` (43_host_commands.md R164). -/
def State.commitWord (s : State) : State :=
  { s with ph := commitSlot s.ph s.wcnt s.wbuf, wcnt := satSucc s.wcnt, wbuf := Key.empty }

/-- Zeroise the phrase and the transient registers (42_mnemonic_decoder.md R146, R147). -/
def State.zeroise (s : State) : State :=
  { s with
    ph := Vector.replicate 12 Key.empty, idx := Vector.replicate 12 0, bits := 0, eb := Vector.replicate 16 0, widx := 0 }

/-- S_FAIL(kind, pos), the entry of a decode error (42_mnemonic_decoder.md R147, 60_exceptions.md R185): record the kind
and the position, zeroise, go to FAIL. -/
def State.raise (s : State) (kind : ErrKind) (pos : Fin 12) : State :=
  { s.zeroise with err := some kind, errpos := pos, out := Vector.replicate 32 0, phase := .fail }

/-- S_FINISH: the successful end of a DECODE (42_mnemonic_decoder.md R146). -/
def State.finish (s : State) : State := { s.zeroise with err := none, errpos := 0, phase := .done }

/-- CLR's writes, the only return from FAIL but hard reset (43_host_commands.md R162, 60_exceptions.md R188): every
register but `CMDERR` to its reset value. -/
def State.clear (s : State) : State :=
  { s.zeroise with
    wbuf := Key.empty, wcnt := 0, out := Vector.replicate 32 0, err := none, errpos := 0, phase := .idle }

/-- Hard reset: every register to its reset value, no response, the dictionary untouched
(70_reset_and_hazards.md R200, 10_state.md R47). -/
def State.hardReset (s : State) : State := { s.clear with cmderr := false }

end Sys2Proof.Machine
end

