-- ==== Sys2Proof/Machine/Packer.lean ====
section
/-! DEFINITION. The Bit Packer and Unpacker's micro-operations (41_bit_packer_unpacker.md). -/

namespace Sys2Proof.Machine

/-- S_PACK, step 4 (41_bit_packer_unpacker.md R122). -/
def execSPack (s : State) : Result := .next { s with bits := pack s.idx, phase := .sSplit }

/-- S_UNPACK, step 7 (41_bit_packer_unpacker.md R125). -/
def execSUnpack (s : State) : Result := .next { s with eb := unpack16 (entOf s.bits), phase := .sDup }

end Sys2Proof.Machine
end

