-- ==== Sys2Proof/Machine/Resolver.lean ====
section
/-! DEFINITION. The Word Resolver: matching, the scan, and the RESOLVE command (40_word_resolver.md). -/

namespace Sys2Proof.Machine

/-- The prefix rule: both words have length at least 4 and their first 4 bytes agree (40_word_resolver.md R101). -/
def prefixRule (u d : Word) : Bool := 4 ≤ u.length && 4 ≤ d.length && u.take 4 == d.take 4

/-- The exact rule: the words are equal (40_word_resolver.md R101). -/
def exactRule (u d : Word) : Bool := u == d

/-- `match(u, d)` for a lowercased user word and a dictionary word (40_word_resolver.md R101). -/
def wordMatch (u d : Word) : Bool := prefixRule u d || exactRule u d

/-- `resolve(l, w)` for the dictionary of `l`: scan in index order, first match wins (40_word_resolver.md R104, R105). -/
def resolve (dict : Vector Word 2048) (w : Word) : Option Index :=
  (dict.toList.findIdx? fun d => wordMatch (lowerWord w) d).map (BitVec.ofNat 11)

/-- The resolver CORE builds: the least index whose key is `k` (40_word_resolver.md R104, R109). -/
def resolveKey (dict : Vector Word 2048) (k : Key) : Option Index :=
  (dict.toList.findIdx? fun d => decide (key d = k)).map (BitVec.ofNat 11)

/-- What the resolver answers for the word under assembly (40_word_resolver.md R109). -/
def State.resolveWord (s : State) : Option Index := resolveKey (s.dictOf Config.LANG) (lowerKey s.wbuf)

/-- RESOLVE l (40_word_resolver.md R109). A reserved language code is ILLEGAL, before the phase is looked at
(30_encoding.md R85, R88). -/
def execResolve (l : BitVec 4) (s : State) : Result :=
  if l = 0 then s.gate (s.phase = .idle) fun s => s.clearWord.respond (foundWord s.resolveWord)
  else .next (s.refuse .illegal)

end Sys2Proof.Machine
end

