-- ==== Sys2Proof/Machine/Decoder.lean ====
section
/-! DEFINITION. The Mnemonic Decoder: the function `decode`, the DECODE command and its micro-operations
(42_mnemonic_decoder.md). -/

namespace Sys2Proof.Machine

/-! ### The function -/

/-- A decode error as the function returns it (42_mnemonic_decoder.md R135). -/
inductive DecodeError where
  | wordCount
  | unknownWord (pos : Nat) (word : Word)
  | checksum
  deriving DecidableEq, Repr

/-- Step 3: resolve the words in phrase order from position `k` on, stopping at the first unknown one. -/
def resolveAll (dict : Vector Word 2048) : Nat → List Word → Except DecodeError (List Index)
  | _, [] => .ok []
  | k, w :: ws =>
    match resolve dict w with
    | none => .error (.unknownWord k w)
    | some i =>
      match resolveAll dict (k + 1) ws with
      | .error e => .error e
      | .ok is => .ok (i :: is)

/-- Twelve indices as the packer takes them. -/
def toSlots (is : List Index) : Vector Index 12 := Vector.ofFn fun k => is.getD k.val 0

/-- `decode(phrase)`: the nine steps (42_mnemonic_decoder.md R135). -/
def decodePhrase (dict : Vector Word 2048) (phrase : List Word) : Except DecodeError (Vector Byte 32) :=
  if phrase.length = 12 then
    match resolveAll dict 0 phrase with
    | .error e => .error e
    | .ok is =>
      if chkOf (pack (toSlots is)) = 0 then .ok (duplicate (unpack16 (entOf (pack (toSlots is)))))
      else .error .checksum
  else .error .wordCount

/-! ### The command -/

/-- DECODE, accepted (42_mnemonic_decoder.md R136): drop an unclosed word and enter S_COUNT. The steps that follow run
the micro-operations `PHASE` selects, and the response comes with the one that enters DONE or FAIL. -/
def execDecode (s : State) : Result :=
  s.gate (s.phase = .idle) fun s => { s.clearWord with phase := .sCount }

/-! ### The micro-operations -/

/-- S_COUNT, step 1 (42_mnemonic_decoder.md R138). -/
def execSCount (s : State) : Result :=
  .next (if s.wcnt.val = 12 then { s with phase := .sLangsel } else s.raise .wordCount 0)

/-- S_LANGSEL, step 2 (42_mnemonic_decoder.md R139). -/
def execSLangsel (s : State) : Result := .next { s with widx := 0, phase := .sResolvew }

/-- A word has resolved: record its index, go to the next word, or to S_PACK after the last
(42_mnemonic_decoder.md R140). -/
def State.recordIndex (s : State) (i : Index) : State :=
  if s.widx.val = 11 then { s with idx := s.idx.set s.widx.val i, phase := .sPack }
  else { s with idx := s.idx.set s.widx.val i, widx := nextSlot s.widx }

/-- What the resolver answers for the phrase slot `WIDX`. -/
def State.resolveSlot (s : State) : Option Index :=
  resolveKey (s.dictOf Config.LANG) (lowerKey s.ph[s.widx.val])

/-- S_RESOLVEW, step 3, once per word (42_mnemonic_decoder.md R140). -/
def execSResolvew (s : State) : Result :=
  .next (match s.resolveSlot with
    | some i => s.recordIndex i
    | none => s.raise .unknownWord s.widx)

/-- S_SPLIT, step 5: the split moves no data (42_mnemonic_decoder.md R142). -/
def execSSplit (s : State) : Result := .next { s with phase := .sCheck }

/-- S_CHECK, step 6: the checksum region must be 0000 (42_mnemonic_decoder.md R143, 00_scope.md R12). -/
def execSCheck (s : State) : Result :=
  .next (if chkOf s.bits = 0 then { s with phase := .sUnpack } else s.raise .checksum 0)

/-- S_DUP, step 8, which ends in S_FINISH (42_mnemonic_decoder.md R145). -/
def execSDup (s : State) : Result := .next ({ s with out := duplicate s.eb } : State).finish

/-- S_FINISH, step 9: entering DONE (42_mnemonic_decoder.md R146). -/
def execSFinish (s : State) : Result := .next s.finish

/-- S_FAIL(kind, pos): entering FAIL (42_mnemonic_decoder.md R147). -/
def execSFail (kind : ErrKind) (pos : Fin 12) (s : State) : Result := .next (s.raise kind pos)

end Sys2Proof.Machine
end

