-- ==== Sys2Proof/Machine/HostCommands.lean ====
section
/-! DEFINITION. The host commands that enter a phrase, start over and read the result (43_host_commands.md). -/

namespace Sys2Proof.Machine

/-- NOP (43_host_commands.md R161). -/
def execNop (s : State) : Result := .next (s.respond 0)

/-- CLR (43_host_commands.md R162). -/
def execClr (s : State) : Result := .next (s.clear.respond 0)

/-- PUTC c (43_host_commands.md R163). -/
def execPutc (c : Byte) (s : State) : Result := s.gate (s.phase = .idle) fun s => (s.putByte c).respond 0

/-- ENDW (43_host_commands.md R164). -/
def execEndw (s : State) : Result := s.gate (s.phase = .idle) fun s => s.commitWord.respond 0

/-- RDST (43_host_commands.md R165). -/
def execRdst (s : State) : Result := .next (s.respond s.status)

/-- RDOUT i (43_host_commands.md R166). -/
def execRdout (i : BitVec 5) (s : State) : Result :=
  s.gate (s.phase = .done) fun s => s.respond (s.out[i.toFin].setWidth 16)

end Sys2Proof.Machine
end

