-- ==== Sys2Proof/Machine/Dispatch.lean ====
section
/-! DEFINITION. One arm per instruction. -/

namespace Sys2Proof.Machine

def exec (i : Instr) (s : State) : Host.Outcome State Fault Refusal :=
  match i with
  | .nop => Sys2Proof.Machine.execNop s
  | .clr => Sys2Proof.Machine.execClr s
  | .putc c => Sys2Proof.Machine.execPutc c s
  | .endw => Sys2Proof.Machine.execEndw s
  | .resolve l => Sys2Proof.Machine.execResolve l s
  | .decode => Sys2Proof.Machine.execDecode s
  | .rdst => Sys2Proof.Machine.execRdst s
  | .rdout k => Sys2Proof.Machine.execRdout k s
  | .sCount => Sys2Proof.Machine.execSCount s
  | .sLangsel => Sys2Proof.Machine.execSLangsel s
  | .sResolvew => Sys2Proof.Machine.execSResolvew s
  | .sPack => Sys2Proof.Machine.execSPack s
  | .sSplit => Sys2Proof.Machine.execSSplit s
  | .sCheck => Sys2Proof.Machine.execSCheck s
  | .sUnpack => Sys2Proof.Machine.execSUnpack s
  | .sDup => Sys2Proof.Machine.execSDup s
  | .sFinish => Sys2Proof.Machine.execSFinish s
  | .sFail kind pos => Sys2Proof.Machine.execSFail kind pos s

end Sys2Proof.Machine
end

