-- ==== Sys2Proof/Machine/Fetch.lean ====
section
/-! DEFINITION. What one step does: hard reset, a micro-operation selected by `PHASE`, or the next command word at the
port (42_mnemonic_decoder.md R137, 43_host_commands.md R160, 70_reset_and_hazards.md R200). -/

namespace Sys2Proof.Machine

/-- The micro-operation `PHASE` selects; none between commands (30_encoding.md R84). -/
def State.microOp (s : State) : Option Instr :=
  if s.phase.resting then none else (decodeMicro s.phase.code .wordCount 0).toOption

/-- DECODE answers 0x0000 when a micro-operation has entered DONE or FAIL (42_mnemonic_decoder.md R136). -/
def State.endDecode (s : State) : State := if s.phase.resting then s.respond 0 else s

/-- Run the micro-operation `i`, then answer if DECODE has ended. -/
def runMicro (i : Instr) (s : State) : Result :=
  match exec i s with
  | .next t => .next t.endDecode
  | .fault f => .fault f
  | .refused r => .refused r

/-- Accept the oldest command word at the port: check its encoding, then execute it, whose rule checks the phase
(30_encoding.md R88, 43_host_commands.md R160). With no word at the port CORE holds its state (60_exceptions.md R193). -/
def State.accept (s : State) : Result :=
  match s.cmds with
  | [] => .next s
  | w :: ws =>
    match decodeCommand w with
    | .ok i => exec i { s with cmds := ws }
    | .error _ => .next (({ s with cmds := ws } : State).refuse .illegal)

/-- One step with hard reset not asserted: no command is accepted while DECODE runs (43_host_commands.md R160). -/
def State.advance (s : State) : Result :=
  match s.microOp with
  | some i => runMicro i s
  | none => s.accept

/-- Take the next sample of the hard-reset input. -/
def State.takeSample (s : State) : State := { s with rst := s.rst.tail }

/-- Hard reset is asserted at this step (70_reset_and_hazards.md R200). -/
def State.resetAsserted (s : State) : Bool := s.rst.headD false

/-- One step: hard reset wins over everything (70_reset_and_hazards.md R200). A DECODE in progress is abandoned, its
word taken and no response given. DESIGN CHOICE, unsafe (assumption log 15): any other command is accepted and answered
in one step, so a sample meets it before acceptance, its word kept, or after its response, never in between. -/
def State.cycle (s : State) : Result :=
  if s.resetAsserted then .next s.takeSample.hardReset else s.takeSample.advance

/-! ### Placing an instruction where the next step takes it -/

/-- Deassert hard reset for the next step. -/
def State.releaseReset (s : State) : State :=
  if s.resetAsserted then { s with rst := false :: s.rst.tail } else s

/-- Put a command word at the front of the port; a phase in which no word is accepted becomes IDLE. -/
def State.placeCommand (s : State) (w : CmdWord) : State :=
  { s.releaseReset with cmds := w :: s.cmds, phase := if s.phase.resting then s.phase else .idle }

/-- Select a micro-operation by its `PHASE` code. Codes 9 and 10 are entry actions no `PHASE` selects: S_FINISH runs at
the end of S_DUP, and S_FAIL in a failing S_COUNT (30_encoding.md R84; assumption log 5). -/
def State.placeMicro (s : State) (code : Nat) : State :=
  match code with
  | 1 => { s.releaseReset with phase := .sCount }
  | 2 => { s.releaseReset with phase := .sLangsel }
  | 3 => { s.releaseReset with phase := .sResolvew }
  | 4 => { s.releaseReset with phase := .sPack }
  | 5 => { s.releaseReset with phase := .sSplit }
  | 6 => { s.releaseReset with phase := .sCheck }
  | 7 => { s.releaseReset with phase := .sUnpack }
  | 8 => { s.releaseReset with phase := .sDup }
  | 9 => { s.releaseReset with phase := .sDup }
  | 10 => { s.releaseReset with phase := .sCount, wcnt := if s.wcnt.val = 12 then 0 else s.wcnt }
  | _ => s

end Sys2Proof.Machine
end

