-- ==== Sys2Proof/Machine/Step.lean ====
section
/-! DEFINITION. The step function, and how the host places one instruction before it. -/

namespace Sys2Proof.Machine

/-- One step of CORE: hard reset, one micro-operation, one command, or holding the state. -/
def step (s : State) : Host.Outcome State Fault Refusal := s.cycle

/-- `s` with an instruction placed where `step` takes its next one: a row of at most 8 bits is a micro-operation,
selected through `PHASE`; any other is a command word at the front of the port (assumption log 5). -/
def State.withFetchWord (s : State) (nbits w : Nat) : State :=
  if nbits ≤ 8 then s.placeMicro w else s.placeCommand (BitVec.ofNat 16 w)

end Sys2Proof.Machine
end

