-- ==== Sys2Proof/Machine/Assembler.lean ====
section
/-! DEFINITION. The assembler's pseudo-instructions as lists of command words (30_encoding.md R90); CORE never sees
them, only the words they expand to. -/

namespace Sys2Proof.Machine

/-- The command word of an instruction the host can issue. -/
def commandWord (i : Instr) : List CmdWord :=
  match encode i with
  | .command w => [w]
  | .micro _ => []

/-- The bytes of a word by PUTC. -/
def putWords (w : Word) : List CmdWord := w.flatMap fun c => commandWord (.putc c)

/-- `WORD "text"`: PUTC of each byte, then ENDW. -/
def asmWord (w : Word) : List CmdWord := putWords w ++ commandWord .endw

/-- `PHRASE`, its text already cut into words. -/
def asmPhrase (ws : List Word) : List CmdWord := ws.flatMap asmWord

/-- Cut a text at single ASCII spaces; `cur` is the word read so far. -/
def cutAtSpaces (cur : Word) : List Byte → List Word
  | [] => [cur]
  | b :: bs => if b = 0x20 then cur :: cutAtSpaces [] bs else cutAtSpaces (cur ++ [b]) bs

/-- `PHRASE "t1 t2 … tn"`. -/
def asmPhraseText (text : List Byte) : List CmdWord := asmPhrase (cutAtSpaces [] text)

/-- `ASK "text"`: PUTC of each byte, then RESOLVE 0. -/
def asmAsk (w : Word) : List CmdWord := putWords w ++ commandWord (.resolve 0)

/-- `READOUT`: RDOUT 0 to RDOUT 31. -/
def asmReadout : List CmdWord := (List.range 32).flatMap fun i => commandWord (.rdout (BitVec.ofNat 5 i))

end Sys2Proof.Machine
end

