-- ==== Sys2Proof/Safety.lean ====
section
/-! DEFINITION. The terms claims about runs of CORE are stated in: the invariant, the table of phases, the edges. -/

namespace Sys2Proof.Machine

/-! ### Between commands, and inside DECODE -/

/-- The transients are zero (10_state.md R46). -/
structure State.TransientsZero (s : State) : Prop where
  idx : s.idx = Vector.replicate 12 0
  bits : s.bits = 0
  eb : s.eb = Vector.replicate 16 0
  widx : s.widx = 0

/-- The quiescent invariant with the register invariants of R28, R29 and R38, carried through the phases inside DECODE
(10_state.md R28, R29, R38, R39, R46). -/
structure State.Inv (s : State) : Prop where
  /-- Unused bytes of `WCH` are zero (R28). -/
  wbufWF : s.wbuf.WF
  /-- Unused bytes of every phrase slot are zero (R29). -/
  phWF : ∀ k : Fin 12, s.ph[k.val].WF
  /-- Phrase slots from `WCNT` on are zero (R29). -/
  phUnused : ∀ k : Fin 12, s.wcnt.val ≤ k.val → s.ph[k.val] = Key.empty
  /-- Between commands the transients are zero (R46). -/
  quiet : s.phase.resting → s.TransientsZero
  /-- Outside IDLE the word under assembly is gone (R46, and inside DECODE R136). -/
  noWord : s.phase ≠ .idle → s.wbuf = Key.empty
  /-- In DONE and FAIL the phrase is gone (R46). -/
  noPhrase : s.phase = .done ∨ s.phase = .fail → s.ph = Vector.replicate 12 Key.empty
  /-- Outside DONE there is no output (R46). -/
  noOutput : s.phase ≠ .done → s.out = Vector.replicate 32 0
  /-- In DONE the output's halves are equal (R46). -/
  halves : s.phase = .done → ∀ j : Fin 16, s.out[j.val + 16] = s.out[j.val]
  /-- `ERR ≠ 0` exactly in FAIL (R38, R46). -/
  errIffFail : s.err ≠ none ↔ s.phase = .fail
  /-- `ERRPOS ≠ 0` only with UnknownWordError (R39, R46). -/
  errposUnknown : s.errpos ≠ 0 → s.err = some .unknownWord
  /-- Past S_COUNT there are twelve words (R46 for DONE). -/
  twelve : s.phase ≠ .idle → s.phase ≠ .sCount → s.phase ≠ .fail → s.wcnt.val = 12
  /-- WordCountError exactly when FAIL was entered with another count (R181 to R183). -/
  countErr : s.phase = .fail → (s.err = some .wordCount ↔ s.wcnt.val ≠ 12)

/-- The phases in which a command executes (43_host_commands.md R167); micro-operations are no commands. -/
def allowedIn : Instr → Phase → Bool
  | .nop, _ | .clr, _ | .rdst, _ => true
  | .putc _, p | .endw, p | .resolve _, p | .decode, p => p = .idle
  | .rdout _, p => p = .done
  | _, _ => false

/-- The command the next step accepts between commands, if the oldest word at the port is legal. -/
def State.accepts (s : State) : Option Instr :=
  match s.cmds with
  | [] => none
  | w :: _ => (decodeCommand w).toOption

/-- The edges of the transition table with their conditions, for a step with hard reset not asserted
(42_mnemonic_decoder.md R137); a command that takes no edge leaves the phase as it was. -/
def State.Edge (s t : State) : Prop :=
  match s.phase with
  | .idle => t.phase = if s.accepts = some .decode then .sCount else .idle
  | .sCount => t.phase = if s.wcnt.val = 12 then .sLangsel else .fail
  | .sLangsel => t.phase = .sResolvew ∧ t.widx = 0
  | .sResolvew =>
    if s.resolveSlot = none then t.phase = .fail
    else if s.widx.val < 11 then t.phase = .sResolvew ∧ t.widx.val = s.widx.val + 1
    else t.phase = .sPack
  | .sPack => t.phase = .sSplit
  | .sSplit => t.phase = .sCheck
  | .sCheck => t.phase = if chkOf s.bits = 0 then .sUnpack else .fail
  | .sUnpack => t.phase = .sDup
  | .sDup => t.phase = .done
  | .done => t.phase = if s.accepts = some .clr then .idle else .done
  | .fail => t.phase = if s.accepts = some .clr then .idle else .fail

/-- How many commands are at the port, in DECODE, or answered. -/
def State.commandCount (s : State) : Nat :=
  s.cmds.length + (if s.phase.resting then 0 else 1) + s.rsps.length

/-! ### Outcomes claims name -/

/-- `s` with `code` answered to a refused command and nothing else changed (60_exceptions.md R186). -/
def refusedState (s : State) (code : RspWord) : State := { s with cmderr := true, rsps := s.rsps ++ [code] }

/-- What S_FAIL(kind, pos) leaves, register by register (42_mnemonic_decoder.md R147). -/
def failedState (s : State) (kind : ErrKind) (pos : Fin 12) : State :=
  { s with
    err := some kind, errpos := pos, out := Vector.replicate 32 0, ph := Vector.replicate 12 Key.empty,
    idx := Vector.replicate 12 0, bits := 0, eb := Vector.replicate 16 0, widx := 0, phase := .fail }

/-- The next step refuses the word with ILLEGAL, in whatever phase a command is accepted (30_encoding.md R85, R88). -/
def RefusedIllegal (w : CmdWord) : Prop :=
  ∀ (s : State) (ws : List CmdWord), s.resetAsserted = false → s.phase.resting → s.cmds = w :: ws →
    step s = .next (refusedState { s with cmds := ws, rst := s.rst.tail } 0x8001)

/-- `i` is the least index whose entry has the key `k` (40_word_resolver.md R104). -/
def LeastIndex (dict : Vector Word 2048) (k : Key) (i : Fin 2048) : Prop :=
  key dict[i.val] = k ∧ ∀ j : Fin 2048, j < i → key dict[j.val] ≠ k

/-- No entry has the key `k`. -/
def NoIndex (dict : Vector Word 2048) (k : Key) : Prop := ∀ j : Fin 2048, key dict[j.val] ≠ k

/-- `n` steps lead from `s` to `t`. -/
def Runs (n : Nat) (s t : State) : Prop := Host.Core.run Sys2Proof.core n s = .next t

/-- How DECODE's outcome stands in the registers (42_mnemonic_decoder.md R148). -/
def State.Shows (t : State) (ws : List Word) : Except DecodeError (Vector Byte 32) → Prop
  | .ok out => t.phase = .done ∧ t.out = out ∧ t.err = none ∧ t.errpos = 0
  | .error .wordCount =>
    t.phase = .fail ∧ t.err = some .wordCount ∧ t.errpos = 0 ∧ t.out = Vector.replicate 32 0
  | .error (.unknownWord k w) =>
    t.phase = .fail ∧ t.err = some .unknownWord ∧ t.errpos.val = k ∧ ws[k]? = some w ∧ t.out = Vector.replicate 32 0
  | .error .checksum =>
    t.phase = .fail ∧ t.err = some .checksum ∧ t.errpos = 0 ∧ t.out = Vector.replicate 32 0

end Sys2Proof.Machine
end

