-- ==== Sys2Proof/Certificates/Slice0/Obligations.lean ====
section
/-! DEFINITION. The statements about CORE, each from the numbered rules of spec/. Where a statement speaks of the port's
lists `cmds`, `rsps` or `rst`, their form is the model's (assumption log 2, 3). -/

open Sys2Proof Sys2Proof.Machine

/-! ### Encoding -/

/-- Decoding the bits of a well-formed instruction gives it back, every operand at every value (R82 to R84). S_FAIL's
operands, which no bits carry, are given beside its code. -/
def Obligations.EncodedInstructionsDecodeBack : Prop :=
  ∀ i : Instr, i.wellFormed →
    decodeEncoded (encode i) i.failOperands.1 i.failOperands.2 = .ok i

/-- The eight rows of the opcode map: a word is the command when `w & mask = match`; any other word is no command (R83). -/
def Obligations.OpcodeMapDecodes : Prop :=
  ∀ w : CmdWord,
    (w &&& 0xFFFF = 0x0000 → decodeCommand w = .ok .nop) ∧
    (w &&& 0xFFFF = 0x1000 → decodeCommand w = .ok .clr) ∧
    (w &&& 0xFF00 = 0x2000 → decodeCommand w = .ok (.putc (w.extractLsb' 0 8))) ∧
    (w &&& 0xFFFF = 0x3000 → decodeCommand w = .ok .endw) ∧
    (w &&& 0xFFFF = 0x4000 → decodeCommand w = .ok (.resolve (w.extractLsb' 0 4))) ∧
    (w &&& 0xFFFF = 0x5000 → decodeCommand w = .ok .decode) ∧
    (w &&& 0xFFFF = 0x6000 → decodeCommand w = .ok .rdst) ∧
    (w &&& 0xFFE0 = 0x7000 → decodeCommand w = .ok (.rdout (w.extractLsb' 0 5))) ∧
    (w ≠ 0x0000 → w ≠ 0x1000 → w &&& 0xFF00 ≠ 0x2000 → w ≠ 0x3000 → w ≠ 0x4000 → w ≠ 0x5000 → w ≠ 0x6000 →
      w &&& 0xFFE0 ≠ 0x7000 → ∀ i, decodeCommand w ≠ .ok i)

/-- Which words are illegal, what the port does with one in any phase that accepts a word, and how many are legal (R85). -/
def Obligations.IllegalWordsAreRefused : Prop :=
  (∀ w : CmdWord, (∀ i, decodeCommand w ≠ .ok i) ↔
    (8 ≤ (opField w).toNat ∨
     ((opField w = 0 ∨ opField w = 1 ∨ opField w = 3 ∨ opField w = 5 ∨ opField w = 6) ∧ argField w ≠ 0) ∨
     (opField w = 2 ∧ (argField w).extractLsb' 8 4 ≠ 0) ∨
     (opField w = 4 ∧ (argField w).extractLsb' 4 8 ≠ 0) ∨
     (opField w = 4 ∧ (argField w).extractLsb' 0 4 ≠ 0) ∨
     (opField w = 7 ∧ (argField w).extractLsb' 5 7 ≠ 0))) ∧
  (∀ w : CmdWord, (∀ i, decodeCommand w ≠ .ok i) → RefusedIllegal w) ∧
  ((List.range 65536).countP fun n => (decodeCommand (BitVec.ofNat 16 n)).toOption.isSome) = 294

/-- A few command words written out from the spec's encodings and vectors (R82, R83). -/
def Obligations.SampleWordsDecode : Prop :=
  decodeCommand 0x2041 = .ok (.putc 0x41) ∧ decodeCommand 0x20FF = .ok (.putc 0xFF) ∧
  decodeCommand 0x5000 = .ok .decode ∧ decodeCommand 0x701F = .ok (.rdout 31) ∧
  decodeCommand 0x4000 = .ok (.resolve 0) ∧ decodeCommand 0x4001 = .error .reservedLanguage ∧
  decodeCommand 0x2141 = .error .reservedBits ∧ decodeCommand 0x8000 = .error .reservedOpcode

/-- The pseudo-instructions expand to the spec's command words; cutting a phrase at its spaces loses nothing and leaves
no space in a word (R90). -/
def Obligations.PseudoInstructionsExpand : Prop :=
  (∀ w : Word, asmWord w = w.map (fun c => 0x2000 ||| c.setWidth 16) ++ [0x3000]) ∧
  (∀ ws : List Word, asmPhrase ws = ws.flatMap asmWord) ∧
  (∀ text : List Byte, asmPhraseText text = asmPhrase (cutAtSpaces [] text) ∧
    List.intercalate [0x20] (cutAtSpaces [] text) = text ∧ ∀ w ∈ cutAtSpaces [] text, (0x20 : Byte) ∉ w) ∧
  (∀ w : Word, asmAsk w = w.map (fun c => 0x2000 ||| c.setWidth 16) ++ [0x4000]) ∧
  asmReadout = (List.range 32).map (fun i => BitVec.ofNat 16 (0x7000 + i)) ∧
  asmWord [0x50, 0x6F, 0x65, 0x74] = [0x2050, 0x206F, 0x2065, 0x2074, 0x3000]

/-! ### What a step does -/

/-- A legal command word at the port, in a phase that accepts one, is executed as the instruction it decodes to; the step
takes the word and one sample of the reset input, nothing else (R160, R88). -/
def Obligations.StepRunsTheDecodedCommand : Prop :=
  ∀ (s : State) (w : CmdWord) (ws : List CmdWord) (i : Instr),
    s.resetAsserted = false → s.phase.resting → s.cmds = w :: ws → decodeCommand w = .ok i →
    step s = exec i { s with cmds := ws, rst := s.rst.tail }

/-- Inside DECODE the step runs the micro-operation `PHASE` selects, and answers 0x0000 when it enters DONE or FAIL;
no command word is taken (R84, R136, R160). -/
def Obligations.StepRunsTheSelectedMicroOperation : Prop :=
  ∀ (s : State) (i : Instr),
    (s.phase, i) ∈ [(Phase.sCount, Instr.sCount), (.sLangsel, .sLangsel), (.sResolvew, .sResolvew), (.sPack, .sPack),
      (.sSplit, .sSplit), (.sCheck, .sCheck), (.sUnpack, .sUnpack), (.sDup, .sDup)] →
    s.resetAsserted = false →
    ∃ t, exec i { s with rst := s.rst.tail } = .next t ∧
      step s = .next (if t.phase.resting then { t with rsps := t.rsps ++ [0x0000] } else t)

/-- With no word at the port and no DECODE running CORE holds its state (R193). -/
def Obligations.StepHoldsWithoutACommand : Prop :=
  ∀ s : State, s.resetAsserted = false → s.phase.resting → s.cmds = [] → step s = .next { s with rst := s.rst.tail }

/-- Hard reset: every register is zero, PHASE is IDLE, nothing is accepted or answered, the dictionary is untouched; and
reset is the only thing that clears CMDERR (R200; that a step asserting reset takes no word, so that it never cuts a
command other than DECODE in two, is the model's choice, assumption log 3, 15). -/
def Obligations.HardResetClearsEveryRegister : Prop :=
  (∀ s : State, s.resetAsserted = true → ∃ t, step s = .next t ∧
    t.wbuf = Key.empty ∧ t.ph = Vector.replicate 12 Key.empty ∧ t.wcnt = 0 ∧ t.TransientsZero ∧
    t.out = Vector.replicate 32 0 ∧ t.err = none ∧ t.errpos = 0 ∧ t.phase = .idle ∧ t.cmderr = false ∧
    t.dict = s.dict ∧ t.cmds = s.cmds ∧ t.rsps = s.rsps ∧ t.rst = s.rst.tail) ∧
  (∀ s t : State, step s = .next t → s.cmderr = true → t.cmderr = false → s.resetAsserted = true)

/-- The reset state: every register of R47 zero, the dictionary the parameter DICT; RDST then answers 0x0000. -/
def Obligations.ResetStateIsZero : Prop :=
  State.reset.wbuf.len = 0 ∧ State.reset.wbuf.ch = Vector.replicate 4 0 ∧
  State.reset.ph = Vector.replicate 12 Key.empty ∧ State.reset.wcnt = 0 ∧ State.reset.idx = Vector.replicate 12 0 ∧
  State.reset.bits = 0 ∧ State.reset.eb = Vector.replicate 16 0 ∧ State.reset.widx = 0 ∧
  State.reset.out = Vector.replicate 32 0 ∧ State.reset.err = none ∧ State.reset.errpos = 0 ∧
  State.reset.phase = .idle ∧ State.reset.cmderr = false ∧ Config.LANG = .english ∧
  State.reset.dict = Config.DICT .english ∧
  exec .rdst State.reset = .next { State.reset with rsps := [0x0000] }

/-! ### The host commands -/

/-- NOP answers 0x0000 in every phase and changes nothing; 0x0001 to 0x0FFF are illegal (R161). -/
def Obligations.NopOnlyResponds : Prop :=
  decodeCommand 0x0000 = .ok .nop ∧
  (∀ s : State, exec .nop s = .next { s with rsps := s.rsps ++ [0x0000] }) ∧
  (∀ w : CmdWord, 0x0001 ≤ w.toNat → w.toNat ≤ 0x0FFF → RefusedIllegal w)

/-- CLR writes its reset value to every mutable register except CMDERR, in every phase, and keeps the rest (R162). -/
def Obligations.ClrRestoresEveryRegisterButCmderr : Prop :=
  decodeCommand 0x1000 = .ok .clr ∧
  (∀ s : State, exec .clr s = .next
    { wbuf := State.reset.wbuf, ph := State.reset.ph, wcnt := 0, idx := State.reset.idx, bits := 0,
      eb := State.reset.eb, widx := 0, out := State.reset.out, err := none, errpos := 0, phase := .idle,
      cmderr := s.cmderr, dict := s.dict, cmds := s.cmds, rsps := s.rsps ++ [0x0000], rst := s.rst }) ∧
  exec .clr State.reset = .next { State.reset with rsps := [0x0000] } ∧
  (∀ w : CmdWord, 0x1001 ≤ w.toNat → w.toNat ≤ 0x1FFF → RefusedIllegal w)

/-- PUTC in IDLE writes `WCH[WLEN]` and counts, or drops a fifth or later byte; elsewhere it is refused; sending a word
leaves its key in WBUF (R163). -/
def Obligations.PutcAppendsACharacter : Prop :=
  (∀ c : Byte, decodeCommand (0x2000 ||| c.setWidth 16) = .ok (.putc c)) ∧
  (∀ (s : State) (c : Byte), s.phase = .idle → ∀ h : s.wbuf.len.val < 4,
    exec (.putc c) s = .next
      { s with wbuf := ⟨⟨s.wbuf.len.val + 1, by omega⟩, s.wbuf.ch.set s.wbuf.len.val c h⟩, rsps := s.rsps ++ [0x0000] }) ∧
  (∀ (s : State) (c : Byte), s.phase = .idle → s.wbuf.len = 4 →
    exec (.putc c) s = .next { s with rsps := s.rsps ++ [0x0000] }) ∧
  (∀ (s : State) (c : Byte), s.phase ≠ .idle → exec (.putc c) s = .next (refusedState s 0x8002)) ∧
  (∀ w : Word, w.foldl Key.put Key.empty = key w) ∧
  (∀ w : CmdWord, 0x2100 ≤ w.toNat → w.toNat ≤ 0x2FFF → RefusedIllegal w)

/-- ENDW in IDLE stores the word under assembly in slot WCNT when there is one, counts it up to 13 and empties WBUF;
elsewhere it is refused (R164). -/
def Obligations.EndwCommitsTheWord : Prop :=
  decodeCommand 0x3000 = .ok .endw ∧
  (∀ s : State, s.phase = .idle → ∀ h : s.wcnt.val < 12,
    exec .endw s = .next
      { s with ph := s.ph.set s.wcnt.val s.wbuf h, wcnt := ⟨s.wcnt.val + 1, by omega⟩, wbuf := Key.empty,
               rsps := s.rsps ++ [0x0000] }) ∧
  (∀ s : State, s.phase = .idle → 12 ≤ s.wcnt.val →
    exec .endw s = .next { s with wcnt := 13, wbuf := Key.empty, rsps := s.rsps ++ [0x0000] }) ∧
  (∀ s : State, s.phase ≠ .idle → exec .endw s = .next (refusedState s 0x8002)) ∧
  (∀ w : CmdWord, 0x3001 ≤ w.toNat → w.toNat ≤ 0x3FFF → RefusedIllegal w)

/-- RESOLVE 0 in IDLE answers 0x0800 with the least index of the key, or 0x0000, and consumes the word; a reserved
language code is ILLEGAL, another phase SEQUENCE; the answer is `resolve` of the word sent (R109). -/
def Obligations.ResolveAnswersTheLeastIndex : Prop :=
  decodeCommand 0x4000 = .ok (.resolve 0) ∧
  (∀ (s : State) (i : Fin 2048), s.phase = .idle → LeastIndex s.dict (lowerKey s.wbuf) i →
    exec (.resolve 0) s = .next
      { s with wbuf := Key.empty, rsps := s.rsps ++ [0x0800 ||| BitVec.ofNat 16 i.val] }) ∧
  (∀ s : State, s.phase = .idle → NoIndex s.dict (lowerKey s.wbuf) →
    exec (.resolve 0) s = .next { s with wbuf := Key.empty, rsps := s.rsps ++ [0x0000] }) ∧
  (∀ s : State, s.phase ≠ .idle → exec (.resolve 0) s = .next (refusedState s 0x8002)) ∧
  (∀ (s : State) (l : BitVec 4), l ≠ 0 → exec (.resolve l) s = .next (refusedState s 0x8001)) ∧
  (∀ (s : State) (w : Word), s.phase = .idle → s.wbuf = key w →
    exec (.resolve 0) s = .next
      { s with wbuf := Key.empty, rsps := s.rsps ++ [foundWord (resolve s.dict w)] }) ∧
  (∀ w : CmdWord, 0x4001 ≤ w.toNat → w.toNat ≤ 0x4FFF → RefusedIllegal w)

/-- DECODE in IDLE drops an unclosed word and enters S_COUNT, changing nothing else; elsewhere it is refused (R136; that
its micro-operations and its response are later steps is the model's reading, assumption log 4). -/
def Obligations.DecodeEntersTheSequencer : Prop :=
  decodeCommand 0x5000 = .ok .decode ∧
  (∀ s : State, s.phase = .idle → exec .decode s = .next { s with wbuf := Key.empty, phase := .sCount }) ∧
  (∀ s : State, s.phase ≠ .idle → exec .decode s = .next (refusedState s 0x8002)) ∧
  (∀ w : CmdWord, 0x5001 ≤ w.toNat → w.toNat ≤ 0x5FFF → RefusedIllegal w)

/-- RDST answers the status word, whose fields stand where the layout says, and changes nothing (R165, R43). -/
def Obligations.RdstReadsTheStatusWord : Prop :=
  decodeCommand 0x6000 = .ok .rdst ∧
  (∀ s : State, exec .rdst s = .next { s with rsps := s.rsps ++ [s.status] }) ∧
  (∀ s : State, s.status.toNat =
    s.wcnt.val <<< 11 ||| s.cmderr.toNat <<< 10 ||| s.errpos.val <<< 6 ||| (errCode s.err).toNat <<< 4 |||
      s.phase.code.toNat) ∧
  (∀ s : State, s.status.getLsbD 15 = false ∧ s.status.extractLsb' 11 4 = BitVec.ofNat 4 s.wcnt.val ∧
    s.status.extractLsb' 10 1 = BitVec.ofBool s.cmderr ∧ s.status.extractLsb' 6 4 = BitVec.ofNat 4 s.errpos.val ∧
    s.status.extractLsb' 4 2 = errCode s.err ∧ s.status.extractLsb' 0 4 = s.phase.code) ∧
  (∀ s : State, s.phase.resting → s.phase.code = 0 ∨ s.phase.code = 9 ∨ s.phase.code = 10) ∧
  (∀ w : CmdWord, 0x6001 ≤ w.toNat → w.toNat ≤ 0x6FFF → RefusedIllegal w)

/-- RDOUT i in DONE answers the byte `OUT[i]` and changes nothing; elsewhere it is refused; i and i + 16 answer the same
in a state that meets the invariant (R166). -/
def Obligations.RdoutReadsAByte : Prop :=
  (∀ i : BitVec 5, decodeCommand (0x7000 ||| i.setWidth 16) = .ok (.rdout i)) ∧
  (∀ (s : State) (i : BitVec 5), s.phase = .done →
    exec (.rdout i) s = .next { s with rsps := s.rsps ++ [(s.out[i.toNat]'i.isLt).setWidth 16] } ∧
    ((s.out[i.toNat]'i.isLt).setWidth 16).toNat ≤ 0x00FF) ∧
  (∀ (s : State) (i : BitVec 5), s.phase ≠ .done → exec (.rdout i) s = .next (refusedState s 0x8002)) ∧
  (∀ (s : State) (i : BitVec 5), s.Inv → s.phase = .done → i.toNat < 16 → exec (.rdout (i + 16)) s = exec (.rdout i) s) ∧
  (∀ w : CmdWord, 0x7020 ≤ w.toNat → w.toNat ≤ 0x7FFF → RefusedIllegal w)

/-- The table of phases: between commands a legal command executes, answering no refusal, where the table allows it, and
is refused SEQUENCE, changing only CMDERR, where it does not (R167). -/
def Obligations.PhaseTableGatesCommands : Prop :=
  ∀ (i : Instr) (s : State), i.isCommand → i.wellFormed → s.phase.resting →
    if allowedIn i s.phase then
      ∃ t, exec i s = .next t ∧ t.cmderr = s.cmderr ∧
        ((i = .decode ∧ t.rsps = s.rsps) ∨ ∃ v, t.rsps = s.rsps ++ [v] ∧ v.getLsbD 15 = false)
    else exec i s = .next (refusedState s 0x8002)

/-! ### The micro-operations -/

/-- S_COUNT goes on exactly with twelve words, else it fails with WordCountError (R138). -/
def Obligations.CountTestsForTwelveWords : Prop :=
  (∀ s : State, s.wcnt.val = 12 → exec .sCount s = .next { s with phase := .sLangsel }) ∧
  (∀ s : State, s.wcnt.val ≠ 12 → exec .sCount s = .next (failedState s .wordCount 0))

/-- S_LANGSEL writes WIDX and PHASE only; the language is the constant English (R139). -/
def Obligations.LangselStartsAtWordZero : Prop :=
  (∀ s : State, exec .sLangsel s = .next { s with widx := 0, phase := .sResolvew }) ∧ Config.LANG = .english

/-- S_RESOLVEW records the least index of the slot's lowercased key and goes to the next word or to S_PACK, or fails with
UnknownWordError at this position (R140). -/
def Obligations.ResolvewResolvesOneWord : Prop :=
  (∀ (s : State) (i : Fin 2048), LeastIndex s.dict (lowerKey s.ph[s.widx.val]) i → ∀ h : s.widx.val < 11,
    exec .sResolvew s = .next
      { s with idx := s.idx.set s.widx.val (BitVec.ofNat 11 i.val), widx := ⟨s.widx.val + 1, by omega⟩ }) ∧
  (∀ (s : State) (i : Fin 2048), LeastIndex s.dict (lowerKey s.ph[s.widx.val]) i → s.widx.val = 11 →
    exec .sResolvew s = .next
      { s with idx := s.idx.set s.widx.val (BitVec.ofNat 11 i.val), phase := .sPack }) ∧
  (∀ s : State, NoIndex s.dict (lowerKey s.ph[s.widx.val]) →
    exec .sResolvew s = .next (failedState s .unknownWord s.widx)) ∧
  (∀ (s : State) (w : Word), s.ph[s.widx.val] = key w → s.resolveSlot = resolve s.dict w)

/-- S_PACK writes `pack(IDX)` to BITS and goes to S_SPLIT; all indices 0 give zero, all 2047 give all ones (R122). -/
def Obligations.PackWritesTheStream : Prop :=
  (∀ s : State, exec .sPack s = .next { s with bits := pack s.idx, phase := .sSplit }) ∧
  pack (Vector.replicate 12 0) = 0 ∧ pack (Vector.replicate 12 2047) = BitVec.allOnes 132

/-- S_SPLIT writes PHASE only; ENT and CHK are stream positions 0 to 127 and 128 to 131 (R142). -/
def Obligations.SplitMovesNoData : Prop :=
  (∀ s : State, exec .sSplit s = .next { s with phase := .sCheck }) ∧
  (∀ (b : BitVec 132) (p : Nat), p < 128 → (entOf b).getMsbD p = streamBit b p) ∧
  (∀ (b : BitVec 132) (p : Nat), p < 4 → (chkOf b).getMsbD p = streamBit b (128 + p))

/-- S_CHECK passes exactly a checksum region of 0000, which a packed stream has exactly when the twelfth index is a
multiple of 16; else it fails with ChecksumError (R143). -/
def Obligations.CheckRequiresZeroChecksum : Prop :=
  (∀ s : State, chkOf s.bits = 0 → exec .sCheck s = .next { s with phase := .sUnpack }) ∧
  (∀ s : State, chkOf s.bits ≠ 0 → exec .sCheck s = .next (failedState s .checksum 0)) ∧
  (∀ idx : Vector Index 12, chkOf (pack idx) = 0 ↔ idx[11].toNat % 16 = 0) ∧
  ((List.range 2048).countP fun i => i % 16 = 0) = 128

/-- S_UNPACK writes byte j from stream positions 8j to 8j + 7 and goes to S_DUP; the checksum region is not read (R125). -/
def Obligations.UnpackWritesSixteenBytes : Prop :=
  ∀ s : State, ∃ eb : Vector Byte 16,
    exec .sUnpack s = .next { s with eb := eb, phase := .sDup } ∧
    ∀ (j : Fin 16) (k : Fin 8), eb[j.val].getMsbD k.val = streamBit s.bits (8 * j.val + k.val)

/-- S_DUP writes every byte of EB to offsets j and 16 + j of OUT, then does S_FINISH (R145). -/
def Obligations.DupWritesBothHalves : Prop :=
  ∀ s : State, ∃ out : Vector Byte 32,
    exec .sDup s = exec .sFinish { s with out := out } ∧
    (∃ t, exec .sDup s = .next t ∧ t.out = out ∧ t.phase = .done) ∧
    ∀ j : Fin 16, out[j.val] = s.eb[j.val] ∧ out[16 + j.val] = s.eb[j.val]

/-- S_FINISH clears the error registers, zeroises the transients and enters DONE; OUT and WCNT are kept (R146). -/
def Obligations.FinishZeroisesAndEntersDone : Prop :=
  ∀ s : State, exec .sFinish s = .next
    { s with
      err := none, errpos := 0, ph := Vector.replicate 12 Key.empty, idx := Vector.replicate 12 0, bits := 0,
      eb := Vector.replicate 16 0, widx := 0, phase := .done }

/-- S_FAIL(kind, pos) records the error, zeroises OUT and the transients and enters FAIL, keeping WCNT (R147). -/
def Obligations.FailRecordsAndZeroises : Prop :=
  ∀ (s : State) (kind : ErrKind) (pos : Fin 12), exec (.sFail kind pos) s = .next (failedState s kind pos)

/-! ### The pure functions -/

/-- `lower` moves the 26 capitals by 0x20 and nothing else; on words it acts byte by byte and is idempotent (R100). -/
def Obligations.LowerChangesOnlyCapitals : Prop :=
  (∀ b : Byte, 0x41 ≤ b.toNat → b.toNat ≤ 0x5A → (lower b).toNat = b.toNat + 0x20) ∧
  (∀ b : Byte, b.toNat < 0x41 ∨ 0x5A < b.toNat → lower b = b) ∧
  (∀ w : Word, (lowerWord w).length = w.length) ∧
  (∀ (w : Word) (j : Nat), (lowerWord w)[j]? = w[j]?.map lower) ∧
  (∀ w : Word, lowerWord (lowerWord w) = lowerWord w)

/-- The key is the length cut off at 4 and the first up to four bytes, the rest zero; lowercasing a key is the key of the
lowercased word (R102). -/
def Obligations.KeyKeepsFourBytes : Prop :=
  (∀ w : Word, (key w).len.val = min w.length 4 ∧ ∀ j : Fin 4, (key w).ch[j.val] = w.getD j.val 0) ∧
  (∀ k : Key, (lowerKey k).len = k.len ∧ ∀ j : Fin 4, (lowerKey k).ch[j.val] = lower k.ch[j.val]) ∧
  (∀ w : Word, key (lowerWord w) = lowerKey (key w))

/-- The two matching rules: the prefix rule and the exact rule, either of them (R101). -/
def Obligations.MatchIsPrefixOrExact : Prop :=
  ∀ u d : Word, wordMatch u d = true ↔
    (4 ≤ u.length ∧ 4 ≤ d.length ∧ ∀ j : Nat, j < 4 → u[j]? = d[j]?) ∨ u = d

/-- Two words match exactly when their keys are equal, with the rule's four consequences (R103). -/
def Obligations.MatchIsKeyEquality : Prop :=
  (∀ u d : Word, wordMatch u d = true ↔ key u = key d) ∧
  (∀ u d : Word, 4 ≤ u.length → 4 ≤ d.length → wordMatch u d = prefixRule u d) ∧
  (∀ u d : Word, 4 ≤ u.length → d.length < 4 → wordMatch u d = false ∧ wordMatch d u = false) ∧
  (∀ u d : Word, u.length < 4 → d.length < 4 → wordMatch u d = exactRule u d) ∧
  (∀ u u' d : Word, u'.take 4 = u.take 4 → wordMatch u' d = wordMatch u d ∧ wordMatch d u' = wordMatch d u)

/-- `resolve` answers the least index whose key is the lowercased word's key, and None exactly when there is none (R104). -/
def Obligations.ResolveFindsTheLeastIndex : Prop :=
  ∀ (dict : Vector Word 2048) (w : Word),
    (∀ i : Fin 2048, resolve dict w = some (BitVec.ofNat 11 i.val) ↔ LeastIndex dict (lowerKey (key w)) i) ∧
    (resolve dict w = none ↔ NoIndex dict (lowerKey (key w)))

/-- The tie-break: the lowest index that satisfies either rule wins, even over a later exact match (R105). -/
def Obligations.LowestIndexWins : Prop :=
  ∀ (dict : Vector Word 2048) (w : Word) (i : Fin 2048),
    wordMatch (lowerWord w) dict[i.val] = true →
    ∃ k : Fin 2048, k ≤ i ∧ resolve dict w = some (BitVec.ofNat 11 k.val) ∧
      wordMatch (lowerWord w) dict[k.val] = true ∧ ∀ j : Fin 2048, j < k → wordMatch (lowerWord w) dict[j.val] = false

/-- Changing the case of ASCII letters of a word never changes what it resolves to (R111). -/
def Obligations.ResolveIgnoresCase : Prop :=
  (∀ (dict : Vector Word 2048) (w : Word), resolve dict w = resolve dict (lowerWord w)) ∧
  (∀ (dict : Vector Word 2048) (w w' : Word), lowerWord w = lowerWord w' → resolve dict w' = resolve dict w)

/-- Stream position 11k + b holds bit 10 - b of index k, and different indices give different streams (R120). -/
def Obligations.PackPlacesEveryIndexBit : Prop :=
  (∀ (idx : Vector Index 12) (k : Fin 12) (b : Fin 11),
    streamBit (pack idx) (11 * k.val + b.val) = idx[k.val].getLsbD (10 - b.val)) ∧
  (∀ idx idx' : Vector Index 12, pack idx = pack idx' → idx = idx')

/-- The stream as a number: the weighted sum, position p as bit 131 - p, the two regions, and the checksum region as the
low four bits of the last index (R121). -/
def Obligations.StreamAsANumber : Prop :=
  (∀ idx : Vector Index 12, (pack idx).toNat =
    ((List.finRange 12).map fun k => idx[k.val].toNat * 2 ^ (11 * (11 - k.val))).sum) ∧
  (∀ (b : BitVec 132) (p : Nat), p < 132 → streamBit b p = b.getLsbD (131 - p)) ∧
  (∀ b : BitVec 132, (entOf b).toNat = b.toNat >>> 4 ∧ (chkOf b).toNat = b.toNat % 16) ∧
  (∀ idx : Vector Index 12, (chkOf (pack idx)).toNat = idx[11].toNat % 16)

/-- The general unpacker: ceil(N / 8) bytes, byte j the base-2 value of its up to eight bits, first most significant (R123). -/
def Obligations.UnpackBytesReadsGroups : Prop :=
  (∀ s : List Bool, (unpackBytes s 8).length = (s.length + 7) / 8) ∧
  (∀ (s : List Bool) (j : Nat), 8 * j < s.length →
    (unpackBytes s 8)[j]? = some (BitVec.ofNat 8 (bitsToNat ((s.drop (8 * j)).take 8)))) ∧
  (∀ bs : List Bool, bitsToNat bs < 2 ^ bs.length) ∧
  (∀ (bs : List Bool) (b : Bool), bitsToNat (b :: bs) = b.toNat * 2 ^ bs.length + bitsToNat bs)

/-- The hardware's unpacker is the general contract on 128 bits, and byte j is the region shifted right by 8(15 - j) and
masked (R124). -/
def Obligations.UnpackSixteenMeetsTheContract : Prop :=
  (∀ e : BitVec 128, (unpack16 e).toList = unpackBytes (bitString e) 8) ∧
  (∀ (e : BitVec 128) (j : Fin 16), ((unpack16 e)[j.val]).toNat = (e.toNat >>> (8 * (15 - j.val))) &&& 0xFF)

/-- Which words feed which byte: bit k of byte j, from the top, is bit (8j + k) mod 11, from the top, of index
(8j + k) / 11 (R126). -/
def Obligations.BytesDrawOnTheirWords : Prop :=
  ∀ (idx : Vector Index 12) (j : Fin 16) (k : Fin 8), ∃ h : (8 * j.val + k.val) / 11 < 12,
    (unpack16 (entOf (pack idx)))[j.val].getMsbD k.val =
      (idx[(8 * j.val + k.val) / 11]'h).getMsbD ((8 * j.val + k.val) % 11)

/-- Which error a phrase with several defects reports, and when `decode` succeeds and with what (R135, R184). -/
def Obligations.DecodeReportsTheFirstDefect : Prop :=
  ∀ (dict : Vector Word 2048) (ws : List Word),
    (ws.length ≠ 12 → decodePhrase dict ws = .error .wordCount) ∧
    (∀ (k : Nat) (w : Word), ws.length = 12 → ws[k]? = some w → resolve dict w = none →
      (∀ (j : Nat) (v : Word), j < k → ws[j]? = some v → resolve dict v ≠ none) →
      decodePhrase dict ws = .error (.unknownWord k w)) ∧
    (∀ idx : Vector Index 12, ws.map (resolve dict) = idx.toList.map some → idx[11].toNat % 16 ≠ 0 →
      decodePhrase dict ws = .error .checksum) ∧
    (∀ idx : Vector Index 12, ws.map (resolve dict) = idx.toList.map some → idx[11].toNat % 16 = 0 →
      decodePhrase dict ws = .ok (duplicate (unpack16 (entOf (pack idx)))))

/-- Every success of `decode` has equal halves (R149, first bullet). -/
def Obligations.DecodeSuccessHasEqualHalves : Prop :=
  ∀ (dict : Vector Word 2048) (ws : List Word) (out : Vector Byte 32), decodePhrase dict ws = .ok out →
    ws.length = 12 ∧ ∀ j : Fin 16, out[16 + j.val] = out[j.val]

/-- Abbreviating words of length at least 4 to their first four characters, or changing the case of letters, keeps the
decoded entropy (R149). -/
def Obligations.DecodeIgnoresCaseAndAbbreviation : Prop :=
  ∀ (dict : Vector Word 2048) (ws ws' : List Word) (out : Vector Byte 32),
    List.Forall₂ (fun w w' => lowerWord w' = lowerWord w ∨ (4 ≤ w.length ∧ w' = w.take 4)) ws ws' →
    decodePhrase dict ws = .ok out → decodePhrase dict ws' = .ok out

/-! ### The whole machine -/

/-- The invariant holds at reset (R46, R47). -/
def Obligations.InvariantHoldsAtReset : Prop := State.reset.Inv

/-- Every step keeps the invariant: register invariants, quiescence, no output outside DONE, equal halves in DONE, ERR set
exactly in FAIL (R28, R29, R38, R39, R46). -/
def Obligations.EveryStepKeepsTheInvariant : Prop :=
  ∀ s t : State, s.Inv → step s = .next t → t.Inv

/-- Every instruction and every step has an outcome, in every state: nothing stops CORE (R160, R86). -/
def Obligations.NothingStopsTheMachine : Prop :=
  (∀ (i : Instr) (s : State), ∃ t, exec i s = .next t) ∧ ∀ s : State, ∃ t, step s = .next t

/-- PHASE and WIDX move only along the edges of the transition table; hard reset leads to IDLE from anywhere (R137). -/
def Obligations.PhaseMovesAlongTheTable : Prop :=
  ∀ s t : State, step s = .next t → if s.resetAsserted then t.phase = .idle else s.Edge t

/-- A DECODE under way ends, without hard reset, with exactly one response and no command accepted (R136, R211). That
the bound counts 19 steps is the model's choice: one step per micro-operation (assumption log 4), with S_FINISH inside
S_DUP's step and S_FAIL inside the failing step (assumption log 5), where R136 counts at most 20 micro-operations. -/
def Obligations.EveryDecodeEnds : Prop :=
  ∀ s : State, s.phase.resting = false → s.rst = [] →
    ∃ (n : Nat) (t : State), n ≤ 19 ∧ Runs n s t ∧ (t.phase = .done ∨ t.phase = .fail) ∧
      t.rsps = s.rsps ++ [0x0000] ∧ t.cmds = s.cmds

/-- DECODE accepted in IDLE runs to its end within 20 steps and then answers 0x0000, on success with OUT and DONE, on
failure with the error, FAIL and OUT zero; WBUF, the phrase and the transients end zero, WCNT is unchanged (R136; the
bound rests on the model's steps, assumption log 4, 5). -/
def Obligations.DecodeCommandRunsToItsEnd : Prop :=
  ∀ (s : State) (ws : List CmdWord), s.phase = .idle → s.rst = [] → s.cmds = 0x5000 :: ws →
    ∃ (n : Nat) (t : State), n ≤ 20 ∧ Runs n s t ∧
      t.rsps = s.rsps ++ [0x0000] ∧ t.cmds = ws ∧ t.wcnt = s.wcnt ∧ t.cmderr = s.cmderr ∧ t.dict = s.dict ∧
      t.wbuf = Key.empty ∧ t.ph = Vector.replicate 12 Key.empty ∧ t.TransientsZero ∧
      ((t.phase = .done ∧ t.err = none ∧ t.errpos = 0) ∨
       (t.phase = .fail ∧ t.err ≠ none ∧ t.out = Vector.replicate 32 0))

/-- Big-step equivalence: sending a phrase word by word, with NOP and RDST anywhere between, and DECODE leaves what
`decode` of the phrase gives (R148). The model's choices, no rule: the bound `n ≤ pre.length + 20`, one step a command
and one a micro-operation (assumption log 4, 5), and the clauses on `cmds` and `rsps`, the port as two lists
(assumption log 2). -/
def Obligations.DecodeCommandComputesDecode : Prop :=
  ∀ (s : State) (ws : List Word) (pre : List CmdWord),
    s.Inv → s.phase = .idle → s.wcnt = 0 → s.wbuf.len = 0 → s.rst = [] → s.cmds = pre ++ [0x5000] →
    pre.filter (fun w => w ≠ 0x0000 ∧ w ≠ 0x6000) = asmPhrase ws →
    ∃ (n : Nat) (t : State), n ≤ pre.length + 20 ∧ Runs n s t ∧ t.Shows ws (decodePhrase s.dict ws) ∧
      t.wcnt.val = min ws.length 13 ∧ t.cmderr = s.cmderr ∧ t.wbuf = Key.empty ∧
      t.ph = Vector.replicate 12 Key.empty ∧ t.TransientsZero ∧ t.dict = s.dict ∧ t.cmds = [] ∧
      t.rsps.length = s.rsps.length + pre.length + 1

/-- Without hard reset no command is lost and each is answered once: those at the port, the DECODE under way and those
answered keep their number, and responses are only added (R19, R160; counting words and responses in lists, and a DECODE
under way between steps, is the model's choice, assumption log 2, 4). -/
def Obligations.OneResponsePerCommand : Prop :=
  ∀ s t : State, step s = .next t → s.resetAsserted = false →
    t.commandCount = s.commandCount ∧ s.rsps <+: t.rsps ∧ t.rsps.length ≤ s.rsps.length + 1

/-- No step, hard reset included, changes the dictionary (R26, R63). -/
def Obligations.DictionaryNeverChanges : Prop :=
  ∀ s t : State, step s = .next t → t.dict = s.dict

/-- A dictionary of other words with the same keys gives the same behaviour, step by step (R27). -/
def Obligations.OnlyDictionaryKeysMatter : Prop :=
  ∀ (s t : State) (d : Vector Word 2048), (∀ i : Fin 2048, key d[i.val] = key s.dict[i.val]) →
    step s = .next t → step { s with dict := d } = .next { t with dict := d }

/-- CMDERR is set by a refusal and by nothing else, and only hard reset clears it (R42). -/
def Obligations.CmderrIsSticky : Prop :=
  State.reset.cmderr = false ∧
  ∀ s t : State, step s = .next t →
    (s.resetAsserted = true → t.cmderr = false) ∧
    (s.resetAsserted = false → (t.cmderr = true ↔
      s.cmderr = true ∨ t.rsps = s.rsps ++ [0x8001] ∨ t.rsps = s.rsps ++ [0x8002]))

/-- A response with bit 15 set is one of the two refusals, and the step that gives it changes nothing but CMDERR beside
taking the word; every other response has bit 15 clear (R186, R81). -/
def Obligations.RefusalsChangeOnlyCmderr : Prop :=
  ∀ (s t : State) (v : RspWord), step s = .next t → s.resetAsserted = false → t.rsps = s.rsps ++ [v] →
    v.getLsbD 15 = true →
    (v = 0x8001 ∨ v = 0x8002) ∧
    t = refusedState { s with cmds := s.cmds.tail, rst := s.rst.tail } v

/-- The status word of every state after a DECODE, CMDERR clear (R181 to R183). -/
def Obligations.StatusTellsTheOutcome : Prop :=
  ∀ s : State, s.Inv → s.cmderr = false →
    (s.phase = .done → s.status = 0x6009) ∧
    (s.phase = .fail → s.err = some .wordCount →
      s.status = (BitVec.ofNat 16 s.wcnt.val <<< 11) ||| 0x001A ∧ s.wcnt.val ≠ 12) ∧
    (s.phase = .fail → s.err = some .unknownWord → s.status = 0x6000 ||| (BitVec.ofNat 16 s.errpos.val <<< 6) ||| 0x002A) ∧
    (s.phase = .fail → s.err = some .checksum → s.status = 0x603A)

/-- The read commands have no side effect: repeating one gives the same response (R72). -/
def Obligations.ReadsRepeat : Prop :=
  ∀ (i : Instr) (s t : State), i = .nop ∨ i = .rdst ∨ (∃ k, i = .rdout k) → allowedIn i s.phase → exec i s = .next t →
    ∃ v, t = { s with rsps := s.rsps ++ [v] } ∧ exec i t = .next { s with rsps := s.rsps ++ [v, v] }

/-- No command but RESOLVE answers anything that depends on WBUF, PH, IDX, BITS, EB or WIDX (R45). Of DECODE this is said
of its accepting step alone, which is all that `exec .decode` is (the model's choice, assumption log 4): the outcome of
the whole DECODE, and so the status after it, depends on PH. -/
def Obligations.HiddenRegistersAreNotAnswered : Prop :=
  ∀ (i : Instr) (s s' : State), i.isCommand → (∀ l, i ≠ .resolve l) →
    s' = { s with wbuf := s'.wbuf, ph := s'.ph, idx := s'.idx, bits := s'.bits, eb := s'.eb, widx := s'.widx } →
    ∃ t t', exec i s = .next t ∧ exec i s' = .next t' ∧ t'.rsps = t.rsps ∧ t'.status = t.status
end

