-- ==== Sys2Proof/Laws/State.lean ====
section
/-! SUPPORT. One lemma per register per update: what each shared operation leaves in each field of the state. -/

namespace Sys2Proof.Machine

/-! ### `State.respond` -/

@[simp] theorem State.respond_wbuf (s : State) (v : RspWord) : (s.respond v).wbuf = s.wbuf := rfl
@[simp] theorem State.respond_ph (s : State) (v : RspWord) : (s.respond v).ph = s.ph := rfl
@[simp] theorem State.respond_wcnt (s : State) (v : RspWord) : (s.respond v).wcnt = s.wcnt := rfl
@[simp] theorem State.respond_idx (s : State) (v : RspWord) : (s.respond v).idx = s.idx := rfl
@[simp] theorem State.respond_bits (s : State) (v : RspWord) : (s.respond v).bits = s.bits := rfl
@[simp] theorem State.respond_eb (s : State) (v : RspWord) : (s.respond v).eb = s.eb := rfl
@[simp] theorem State.respond_widx (s : State) (v : RspWord) : (s.respond v).widx = s.widx := rfl
@[simp] theorem State.respond_out (s : State) (v : RspWord) : (s.respond v).out = s.out := rfl
@[simp] theorem State.respond_err (s : State) (v : RspWord) : (s.respond v).err = s.err := rfl
@[simp] theorem State.respond_errpos (s : State) (v : RspWord) : (s.respond v).errpos = s.errpos := rfl
@[simp] theorem State.respond_phase (s : State) (v : RspWord) : (s.respond v).phase = s.phase := rfl
@[simp] theorem State.respond_cmderr (s : State) (v : RspWord) : (s.respond v).cmderr = s.cmderr := rfl
@[simp] theorem State.respond_dict (s : State) (v : RspWord) : (s.respond v).dict = s.dict := rfl
@[simp] theorem State.respond_cmds (s : State) (v : RspWord) : (s.respond v).cmds = s.cmds := rfl
@[simp] theorem State.respond_rsps (s : State) (v : RspWord) : (s.respond v).rsps = s.rsps ++ [v] := rfl
@[simp] theorem State.respond_rst (s : State) (v : RspWord) : (s.respond v).rst = s.rst := rfl

/-! ### `State.refuse` -/

@[simp] theorem State.refuse_wbuf (s : State) (c : RefuseCode) : (s.refuse c).wbuf = s.wbuf := rfl
@[simp] theorem State.refuse_ph (s : State) (c : RefuseCode) : (s.refuse c).ph = s.ph := rfl
@[simp] theorem State.refuse_wcnt (s : State) (c : RefuseCode) : (s.refuse c).wcnt = s.wcnt := rfl
@[simp] theorem State.refuse_idx (s : State) (c : RefuseCode) : (s.refuse c).idx = s.idx := rfl
@[simp] theorem State.refuse_bits (s : State) (c : RefuseCode) : (s.refuse c).bits = s.bits := rfl
@[simp] theorem State.refuse_eb (s : State) (c : RefuseCode) : (s.refuse c).eb = s.eb := rfl
@[simp] theorem State.refuse_widx (s : State) (c : RefuseCode) : (s.refuse c).widx = s.widx := rfl
@[simp] theorem State.refuse_out (s : State) (c : RefuseCode) : (s.refuse c).out = s.out := rfl
@[simp] theorem State.refuse_err (s : State) (c : RefuseCode) : (s.refuse c).err = s.err := rfl
@[simp] theorem State.refuse_errpos (s : State) (c : RefuseCode) : (s.refuse c).errpos = s.errpos := rfl
@[simp] theorem State.refuse_phase (s : State) (c : RefuseCode) : (s.refuse c).phase = s.phase := rfl
@[simp] theorem State.refuse_cmderr (s : State) (c : RefuseCode) : (s.refuse c).cmderr = true := rfl
@[simp] theorem State.refuse_dict (s : State) (c : RefuseCode) : (s.refuse c).dict = s.dict := rfl
@[simp] theorem State.refuse_cmds (s : State) (c : RefuseCode) : (s.refuse c).cmds = s.cmds := rfl
@[simp] theorem State.refuse_rsps (s : State) (c : RefuseCode) : (s.refuse c).rsps = s.rsps ++ [c.response] := rfl
@[simp] theorem State.refuse_rst (s : State) (c : RefuseCode) : (s.refuse c).rst = s.rst := rfl

/-! ### `State.clearWord` -/

@[simp] theorem State.clearWord_wbuf (s : State) : (s.clearWord).wbuf = Key.empty := rfl
@[simp] theorem State.clearWord_ph (s : State) : (s.clearWord).ph = s.ph := rfl
@[simp] theorem State.clearWord_wcnt (s : State) : (s.clearWord).wcnt = s.wcnt := rfl
@[simp] theorem State.clearWord_idx (s : State) : (s.clearWord).idx = s.idx := rfl
@[simp] theorem State.clearWord_bits (s : State) : (s.clearWord).bits = s.bits := rfl
@[simp] theorem State.clearWord_eb (s : State) : (s.clearWord).eb = s.eb := rfl
@[simp] theorem State.clearWord_widx (s : State) : (s.clearWord).widx = s.widx := rfl
@[simp] theorem State.clearWord_out (s : State) : (s.clearWord).out = s.out := rfl
@[simp] theorem State.clearWord_err (s : State) : (s.clearWord).err = s.err := rfl
@[simp] theorem State.clearWord_errpos (s : State) : (s.clearWord).errpos = s.errpos := rfl
@[simp] theorem State.clearWord_phase (s : State) : (s.clearWord).phase = s.phase := rfl
@[simp] theorem State.clearWord_cmderr (s : State) : (s.clearWord).cmderr = s.cmderr := rfl
@[simp] theorem State.clearWord_dict (s : State) : (s.clearWord).dict = s.dict := rfl
@[simp] theorem State.clearWord_cmds (s : State) : (s.clearWord).cmds = s.cmds := rfl
@[simp] theorem State.clearWord_rsps (s : State) : (s.clearWord).rsps = s.rsps := rfl
@[simp] theorem State.clearWord_rst (s : State) : (s.clearWord).rst = s.rst := rfl

/-! ### `State.putByte` -/

@[simp] theorem State.putByte_wbuf (s : State) (c : Byte) : (s.putByte c).wbuf = s.wbuf.put c := rfl
@[simp] theorem State.putByte_ph (s : State) (c : Byte) : (s.putByte c).ph = s.ph := rfl
@[simp] theorem State.putByte_wcnt (s : State) (c : Byte) : (s.putByte c).wcnt = s.wcnt := rfl
@[simp] theorem State.putByte_idx (s : State) (c : Byte) : (s.putByte c).idx = s.idx := rfl
@[simp] theorem State.putByte_bits (s : State) (c : Byte) : (s.putByte c).bits = s.bits := rfl
@[simp] theorem State.putByte_eb (s : State) (c : Byte) : (s.putByte c).eb = s.eb := rfl
@[simp] theorem State.putByte_widx (s : State) (c : Byte) : (s.putByte c).widx = s.widx := rfl
@[simp] theorem State.putByte_out (s : State) (c : Byte) : (s.putByte c).out = s.out := rfl
@[simp] theorem State.putByte_err (s : State) (c : Byte) : (s.putByte c).err = s.err := rfl
@[simp] theorem State.putByte_errpos (s : State) (c : Byte) : (s.putByte c).errpos = s.errpos := rfl
@[simp] theorem State.putByte_phase (s : State) (c : Byte) : (s.putByte c).phase = s.phase := rfl
@[simp] theorem State.putByte_cmderr (s : State) (c : Byte) : (s.putByte c).cmderr = s.cmderr := rfl
@[simp] theorem State.putByte_dict (s : State) (c : Byte) : (s.putByte c).dict = s.dict := rfl
@[simp] theorem State.putByte_cmds (s : State) (c : Byte) : (s.putByte c).cmds = s.cmds := rfl
@[simp] theorem State.putByte_rsps (s : State) (c : Byte) : (s.putByte c).rsps = s.rsps := rfl
@[simp] theorem State.putByte_rst (s : State) (c : Byte) : (s.putByte c).rst = s.rst := rfl

/-! ### `State.commitWord` -/

@[simp] theorem State.commitWord_wbuf (s : State) : (s.commitWord).wbuf = Key.empty := rfl
@[simp] theorem State.commitWord_ph (s : State) : (s.commitWord).ph = commitSlot s.ph s.wcnt s.wbuf := rfl
@[simp] theorem State.commitWord_wcnt (s : State) : (s.commitWord).wcnt = satSucc s.wcnt := rfl
@[simp] theorem State.commitWord_idx (s : State) : (s.commitWord).idx = s.idx := rfl
@[simp] theorem State.commitWord_bits (s : State) : (s.commitWord).bits = s.bits := rfl
@[simp] theorem State.commitWord_eb (s : State) : (s.commitWord).eb = s.eb := rfl
@[simp] theorem State.commitWord_widx (s : State) : (s.commitWord).widx = s.widx := rfl
@[simp] theorem State.commitWord_out (s : State) : (s.commitWord).out = s.out := rfl
@[simp] theorem State.commitWord_err (s : State) : (s.commitWord).err = s.err := rfl
@[simp] theorem State.commitWord_errpos (s : State) : (s.commitWord).errpos = s.errpos := rfl
@[simp] theorem State.commitWord_phase (s : State) : (s.commitWord).phase = s.phase := rfl
@[simp] theorem State.commitWord_cmderr (s : State) : (s.commitWord).cmderr = s.cmderr := rfl
@[simp] theorem State.commitWord_dict (s : State) : (s.commitWord).dict = s.dict := rfl
@[simp] theorem State.commitWord_cmds (s : State) : (s.commitWord).cmds = s.cmds := rfl
@[simp] theorem State.commitWord_rsps (s : State) : (s.commitWord).rsps = s.rsps := rfl
@[simp] theorem State.commitWord_rst (s : State) : (s.commitWord).rst = s.rst := rfl

/-! ### `State.zeroise` -/

@[simp] theorem State.zeroise_wbuf (s : State) : (s.zeroise).wbuf = s.wbuf := rfl
@[simp] theorem State.zeroise_ph (s : State) : (s.zeroise).ph = Vector.replicate 12 Key.empty := rfl
@[simp] theorem State.zeroise_wcnt (s : State) : (s.zeroise).wcnt = s.wcnt := rfl
@[simp] theorem State.zeroise_idx (s : State) : (s.zeroise).idx = Vector.replicate 12 0 := rfl
@[simp] theorem State.zeroise_bits (s : State) : (s.zeroise).bits = 0 := rfl
@[simp] theorem State.zeroise_eb (s : State) : (s.zeroise).eb = Vector.replicate 16 0 := rfl
@[simp] theorem State.zeroise_widx (s : State) : (s.zeroise).widx = 0 := rfl
@[simp] theorem State.zeroise_out (s : State) : (s.zeroise).out = s.out := rfl
@[simp] theorem State.zeroise_err (s : State) : (s.zeroise).err = s.err := rfl
@[simp] theorem State.zeroise_errpos (s : State) : (s.zeroise).errpos = s.errpos := rfl
@[simp] theorem State.zeroise_phase (s : State) : (s.zeroise).phase = s.phase := rfl
@[simp] theorem State.zeroise_cmderr (s : State) : (s.zeroise).cmderr = s.cmderr := rfl
@[simp] theorem State.zeroise_dict (s : State) : (s.zeroise).dict = s.dict := rfl
@[simp] theorem State.zeroise_cmds (s : State) : (s.zeroise).cmds = s.cmds := rfl
@[simp] theorem State.zeroise_rsps (s : State) : (s.zeroise).rsps = s.rsps := rfl
@[simp] theorem State.zeroise_rst (s : State) : (s.zeroise).rst = s.rst := rfl

/-! ### `State.raise` -/

@[simp] theorem State.raise_wbuf (s : State) (kind : ErrKind) (pos : Fin 12) : (s.raise kind pos).wbuf = s.wbuf := rfl
@[simp] theorem State.raise_ph (s : State) (kind : ErrKind) (pos : Fin 12) : (s.raise kind pos).ph = Vector.replicate 12 Key.empty := rfl
@[simp] theorem State.raise_wcnt (s : State) (kind : ErrKind) (pos : Fin 12) : (s.raise kind pos).wcnt = s.wcnt := rfl
@[simp] theorem State.raise_idx (s : State) (kind : ErrKind) (pos : Fin 12) : (s.raise kind pos).idx = Vector.replicate 12 0 := rfl
@[simp] theorem State.raise_bits (s : State) (kind : ErrKind) (pos : Fin 12) : (s.raise kind pos).bits = 0 := rfl
@[simp] theorem State.raise_eb (s : State) (kind : ErrKind) (pos : Fin 12) : (s.raise kind pos).eb = Vector.replicate 16 0 := rfl
@[simp] theorem State.raise_widx (s : State) (kind : ErrKind) (pos : Fin 12) : (s.raise kind pos).widx = 0 := rfl
@[simp] theorem State.raise_out (s : State) (kind : ErrKind) (pos : Fin 12) : (s.raise kind pos).out = Vector.replicate 32 0 := rfl
@[simp] theorem State.raise_err (s : State) (kind : ErrKind) (pos : Fin 12) : (s.raise kind pos).err = some kind := rfl
@[simp] theorem State.raise_errpos (s : State) (kind : ErrKind) (pos : Fin 12) : (s.raise kind pos).errpos = pos := rfl
@[simp] theorem State.raise_phase (s : State) (kind : ErrKind) (pos : Fin 12) : (s.raise kind pos).phase = .fail := rfl
@[simp] theorem State.raise_cmderr (s : State) (kind : ErrKind) (pos : Fin 12) : (s.raise kind pos).cmderr = s.cmderr := rfl
@[simp] theorem State.raise_dict (s : State) (kind : ErrKind) (pos : Fin 12) : (s.raise kind pos).dict = s.dict := rfl
@[simp] theorem State.raise_cmds (s : State) (kind : ErrKind) (pos : Fin 12) : (s.raise kind pos).cmds = s.cmds := rfl
@[simp] theorem State.raise_rsps (s : State) (kind : ErrKind) (pos : Fin 12) : (s.raise kind pos).rsps = s.rsps := rfl
@[simp] theorem State.raise_rst (s : State) (kind : ErrKind) (pos : Fin 12) : (s.raise kind pos).rst = s.rst := rfl

/-! ### `State.finish` -/

@[simp] theorem State.finish_wbuf (s : State) : (s.finish).wbuf = s.wbuf := rfl
@[simp] theorem State.finish_ph (s : State) : (s.finish).ph = Vector.replicate 12 Key.empty := rfl
@[simp] theorem State.finish_wcnt (s : State) : (s.finish).wcnt = s.wcnt := rfl
@[simp] theorem State.finish_idx (s : State) : (s.finish).idx = Vector.replicate 12 0 := rfl
@[simp] theorem State.finish_bits (s : State) : (s.finish).bits = 0 := rfl
@[simp] theorem State.finish_eb (s : State) : (s.finish).eb = Vector.replicate 16 0 := rfl
@[simp] theorem State.finish_widx (s : State) : (s.finish).widx = 0 := rfl
@[simp] theorem State.finish_out (s : State) : (s.finish).out = s.out := rfl
@[simp] theorem State.finish_err (s : State) : (s.finish).err = none := rfl
@[simp] theorem State.finish_errpos (s : State) : (s.finish).errpos = 0 := rfl
@[simp] theorem State.finish_phase (s : State) : (s.finish).phase = .done := rfl
@[simp] theorem State.finish_cmderr (s : State) : (s.finish).cmderr = s.cmderr := rfl
@[simp] theorem State.finish_dict (s : State) : (s.finish).dict = s.dict := rfl
@[simp] theorem State.finish_cmds (s : State) : (s.finish).cmds = s.cmds := rfl
@[simp] theorem State.finish_rsps (s : State) : (s.finish).rsps = s.rsps := rfl
@[simp] theorem State.finish_rst (s : State) : (s.finish).rst = s.rst := rfl

/-! ### `State.clear` -/

@[simp] theorem State.clear_wbuf (s : State) : (s.clear).wbuf = Key.empty := rfl
@[simp] theorem State.clear_ph (s : State) : (s.clear).ph = Vector.replicate 12 Key.empty := rfl
@[simp] theorem State.clear_wcnt (s : State) : (s.clear).wcnt = 0 := rfl
@[simp] theorem State.clear_idx (s : State) : (s.clear).idx = Vector.replicate 12 0 := rfl
@[simp] theorem State.clear_bits (s : State) : (s.clear).bits = 0 := rfl
@[simp] theorem State.clear_eb (s : State) : (s.clear).eb = Vector.replicate 16 0 := rfl
@[simp] theorem State.clear_widx (s : State) : (s.clear).widx = 0 := rfl
@[simp] theorem State.clear_out (s : State) : (s.clear).out = Vector.replicate 32 0 := rfl
@[simp] theorem State.clear_err (s : State) : (s.clear).err = none := rfl
@[simp] theorem State.clear_errpos (s : State) : (s.clear).errpos = 0 := rfl
@[simp] theorem State.clear_phase (s : State) : (s.clear).phase = .idle := rfl
@[simp] theorem State.clear_cmderr (s : State) : (s.clear).cmderr = s.cmderr := rfl
@[simp] theorem State.clear_dict (s : State) : (s.clear).dict = s.dict := rfl
@[simp] theorem State.clear_cmds (s : State) : (s.clear).cmds = s.cmds := rfl
@[simp] theorem State.clear_rsps (s : State) : (s.clear).rsps = s.rsps := rfl
@[simp] theorem State.clear_rst (s : State) : (s.clear).rst = s.rst := rfl

/-! ### `State.hardReset` -/

@[simp] theorem State.hardReset_wbuf (s : State) : (s.hardReset).wbuf = Key.empty := rfl
@[simp] theorem State.hardReset_ph (s : State) : (s.hardReset).ph = Vector.replicate 12 Key.empty := rfl
@[simp] theorem State.hardReset_wcnt (s : State) : (s.hardReset).wcnt = 0 := rfl
@[simp] theorem State.hardReset_idx (s : State) : (s.hardReset).idx = Vector.replicate 12 0 := rfl
@[simp] theorem State.hardReset_bits (s : State) : (s.hardReset).bits = 0 := rfl
@[simp] theorem State.hardReset_eb (s : State) : (s.hardReset).eb = Vector.replicate 16 0 := rfl
@[simp] theorem State.hardReset_widx (s : State) : (s.hardReset).widx = 0 := rfl
@[simp] theorem State.hardReset_out (s : State) : (s.hardReset).out = Vector.replicate 32 0 := rfl
@[simp] theorem State.hardReset_err (s : State) : (s.hardReset).err = none := rfl
@[simp] theorem State.hardReset_errpos (s : State) : (s.hardReset).errpos = 0 := rfl
@[simp] theorem State.hardReset_phase (s : State) : (s.hardReset).phase = .idle := rfl
@[simp] theorem State.hardReset_cmderr (s : State) : (s.hardReset).cmderr = false := rfl
@[simp] theorem State.hardReset_dict (s : State) : (s.hardReset).dict = s.dict := rfl
@[simp] theorem State.hardReset_cmds (s : State) : (s.hardReset).cmds = s.cmds := rfl
@[simp] theorem State.hardReset_rsps (s : State) : (s.hardReset).rsps = s.rsps := rfl
@[simp] theorem State.hardReset_rst (s : State) : (s.hardReset).rst = s.rst := rfl

/-! ### `State.takeSample` -/

@[simp] theorem State.takeSample_wbuf (s : State) : (s.takeSample).wbuf = s.wbuf := rfl
@[simp] theorem State.takeSample_ph (s : State) : (s.takeSample).ph = s.ph := rfl
@[simp] theorem State.takeSample_wcnt (s : State) : (s.takeSample).wcnt = s.wcnt := rfl
@[simp] theorem State.takeSample_idx (s : State) : (s.takeSample).idx = s.idx := rfl
@[simp] theorem State.takeSample_bits (s : State) : (s.takeSample).bits = s.bits := rfl
@[simp] theorem State.takeSample_eb (s : State) : (s.takeSample).eb = s.eb := rfl
@[simp] theorem State.takeSample_widx (s : State) : (s.takeSample).widx = s.widx := rfl
@[simp] theorem State.takeSample_out (s : State) : (s.takeSample).out = s.out := rfl
@[simp] theorem State.takeSample_err (s : State) : (s.takeSample).err = s.err := rfl
@[simp] theorem State.takeSample_errpos (s : State) : (s.takeSample).errpos = s.errpos := rfl
@[simp] theorem State.takeSample_phase (s : State) : (s.takeSample).phase = s.phase := rfl
@[simp] theorem State.takeSample_cmderr (s : State) : (s.takeSample).cmderr = s.cmderr := rfl
@[simp] theorem State.takeSample_dict (s : State) : (s.takeSample).dict = s.dict := rfl
@[simp] theorem State.takeSample_cmds (s : State) : (s.takeSample).cmds = s.cmds := rfl
@[simp] theorem State.takeSample_rsps (s : State) : (s.takeSample).rsps = s.rsps := rfl
@[simp] theorem State.takeSample_rst (s : State) : (s.takeSample).rst = s.rst.tail := rfl

end Sys2Proof.Machine
end

