-- ==== Sys2Proof/Laws/Ops.lean ====
section
/-! SUPPORT. For each shared operation, once, everything it can do. -/

namespace Sys2Proof.Machine

/-! ### Gating and refusing -/

/-- A gated command executes or is refused SEQUENCE; there is no third outcome. -/
theorem State.gate_cases (s : State) (allowed : Bool) (body : State → State) :
    (allowed = true ∧ s.gate allowed body = .next (body s)) ∨
      (allowed = false ∧ s.gate allowed body = .next (s.refuse .sequence)) := by
  cases allowed <;> simp [State.gate]

theorem State.gate_allowed {s : State} {allowed : Bool} (h : allowed = true) (body : State → State) :
    s.gate allowed body = .next (body s) := by simp [State.gate, h]

theorem State.gate_refused {s : State} {allowed : Bool} (h : allowed = false) (body : State → State) :
    s.gate allowed body = .next (s.refuse .sequence) := by simp [State.gate, h]

/-! ### Words and slots -/

theorem Key.put_short {k : Key} (h : k.len.val < 4) (c : Byte) :
    k.put c = ⟨⟨k.len.val + 1, by omega⟩, k.ch.set k.len.val c h⟩ := by simp [Key.put, h]

theorem Key.put_full {k : Key} (h : ¬ k.len.val < 4) (c : Byte) : k.put c = k := by simp [Key.put, h]

theorem commitSlot_stores {ph : Vector Key 12} {wcnt : Fin 14} (h : wcnt.val < 12) (k : Key) :
    commitSlot ph wcnt k = ph.set wcnt.val k h := by simp [commitSlot, h]

theorem commitSlot_full {ph : Vector Key 12} {wcnt : Fin 14} (h : ¬ wcnt.val < 12) (k : Key) :
    commitSlot ph wcnt k = ph := by simp [commitSlot, h]

@[simp] theorem satSucc_val (n : Fin 14) : (satSucc n).val = min (n.val + 1) 13 := rfl

theorem nextSlot_val {k : Fin 12} (h : k.val < 11) : (nextSlot k).val = k.val + 1 := by
  simp only [nextSlot]; omega

/-! ### The stream -/

@[simp] theorem unpack16_get (e : BitVec 128) (j : Nat) (h : j < 16) : (unpack16 e)[j] = entByte e j := by
  simp [unpack16]

theorem duplicate_low (eb : Vector Byte 16) (j : Nat) (h : j < 16) : (duplicate eb)[j] = eb[j] :=
  Vector.getElem_append_left (xs := eb) (ys := eb) h

theorem duplicate_high (eb : Vector Byte 16) (j : Nat) (h : j < 16) : (duplicate eb)[j + 16] = eb[j] := by
  have := Vector.getElem_append_right (xs := eb) (ys := eb) (i := j + 16) (by omega) (by omega)
  simpa [duplicate] using this

/-! ### Instructions and steps -/

/-- Every meaning answers a next state. -/
theorem exec_next (i : Instr) (s : State) : ∃ t, exec i s = .next t := by
  cases i with
  | resolve l => simp only [exec, execResolve, State.gate]; split <;> exact ⟨_, rfl⟩
  | _ => exact ⟨_, rfl⟩

/-- A micro-operation runs as its instruction does, then DECODE answers if it has ended. -/
theorem runMicro_next {i : Instr} {s t : State} (h : exec i s = .next t) : runMicro i s = .next t.endDecode := by
  simp [runMicro, h]

theorem State.endDecode_resting {s : State} (h : s.phase.resting = true) : s.endDecode = s.respond 0 := by
  simp [State.endDecode, h]

theorem State.endDecode_busy {s : State} (h : s.phase.resting = false) : s.endDecode = s := by
  simp [State.endDecode, h]

theorem State.microOp_resting {s : State} (h : s.phase.resting = true) : s.microOp = none := by
  simp [State.microOp, h]

/-- What the port can do: hold, execute a legal word, or refuse an illegal one. -/
theorem State.accept_cases (s : State) :
    (s.cmds = [] ∧ s.accept = .next s) ∨
      (∃ w ws i, s.cmds = w :: ws ∧ decodeCommand w = .ok i ∧ s.accept = exec i { s with cmds := ws }) ∨
      (∃ w ws r, s.cmds = w :: ws ∧ decodeCommand w = .error r ∧
        s.accept = .next (({ s with cmds := ws } : State).refuse .illegal)) := by
  cases hc : s.cmds with
  | nil => exact .inl ⟨rfl, by simp [State.accept, hc]⟩
  | cons w ws =>
    cases hd : decodeCommand w with
    | ok i => exact .inr (.inl ⟨w, ws, i, rfl, hd, by simp [State.accept, hc, hd]⟩)
    | error r => exact .inr (.inr ⟨w, ws, r, rfl, hd, by simp [State.accept, hc, hd]⟩)

theorem State.advance_resting {s : State} (h : s.phase.resting = true) : s.advance = s.accept := by
  simp [State.advance, State.microOp_resting h]

/-- Inside DECODE the phase decides the micro-operation. -/
theorem State.advance_busy {s : State} :
    (s.phase = .sCount → s.advance = runMicro .sCount s) ∧ (s.phase = .sLangsel → s.advance = runMicro .sLangsel s) ∧
    (s.phase = .sResolvew → s.advance = runMicro .sResolvew s) ∧ (s.phase = .sPack → s.advance = runMicro .sPack s) ∧
    (s.phase = .sSplit → s.advance = runMicro .sSplit s) ∧ (s.phase = .sCheck → s.advance = runMicro .sCheck s) ∧
    (s.phase = .sUnpack → s.advance = runMicro .sUnpack s) ∧ (s.phase = .sDup → s.advance = runMicro .sDup s) := by
  refine ⟨?_, ?_, ?_, ?_, ?_, ?_, ?_, ?_⟩ <;> intro h <;>
    simp [State.advance, State.microOp, h, Phase.resting, Phase.code, decodeMicro, Except.toOption]

/-- Hard reset wins over everything. -/
theorem step_reset {s : State} (h : s.resetAsserted = true) : step s = .next s.takeSample.hardReset := by
  simp [step, State.cycle, h]

theorem step_run {s : State} (h : s.resetAsserted = false) : step s = s.takeSample.advance := by
  simp [step, State.cycle, h]

end Sys2Proof.Machine
end

