-- ==== Sys2Proof/Laws/Resolver.lean ====
section
/-! SUPPORT. What the resolver's scan answers. -/

namespace Sys2Proof.Machine

/-- The scan of 2048 entries never answers a position an 11-bit index could not hold. -/
theorem scan_lt {dict : Vector Word 2048} {p : Word → Bool} {n : Nat} (h : dict.toList.findIdx? p = some n) :
    n < 2048 := by
  have := List.findIdx?_eq_some_iff_getElem.mp h
  obtain ⟨hn, -, -⟩ := this
  simpa using hn

/-- The resolver answers an index exactly when it is the least whose key is `k`. -/
theorem resolveKey_eq_some {dict : Vector Word 2048} {k : Key} {i : Fin 2048} :
    resolveKey dict k = some (BitVec.ofNat 11 i.val) ↔
      key dict[i.val] = k ∧ ∀ j : Fin 2048, j < i → key dict[j.val] ≠ k := by
  unfold resolveKey
  constructor
  · intro h
    obtain ⟨n, hn, he⟩ := Option.map_eq_some_iff.mp h
    have hlt := scan_lt hn
    have : n = i.val := by
      have := congrArg BitVec.toNat he
      simp only [BitVec.toNat_ofNat] at this
      omega
    subst this
    obtain ⟨h1, h2, h3⟩ := List.findIdx?_eq_some_iff_getElem.mp hn
    refine ⟨by simpa using h2, fun j hj => ?_⟩
    simpa using h3 j.val hj
  · rintro ⟨h1, h2⟩
    refine Option.map_eq_some_iff.mpr ⟨i.val, ?_, rfl⟩
    refine List.findIdx?_eq_some_iff_getElem.mpr ⟨by simp, by simpa using h1, fun j hj => ?_⟩
    simpa using h2 ⟨j, by omega⟩ hj

/-- The resolver answers nothing exactly when no entry has the key. -/
theorem resolveKey_eq_none {dict : Vector Word 2048} {k : Key} :
    resolveKey dict k = none ↔ ∀ j : Fin 2048, key dict[j.val] ≠ k := by
  unfold resolveKey
  simp only [Option.map_eq_none_iff, List.findIdx?_eq_none_iff]
  constructor
  · intro h j
    simpa using h dict[j.val] (by simp)
  · intro h w hw
    obtain ⟨n, hn, rfl⟩ := List.mem_iff_getElem.mp hw
    simpa using h ⟨n, by simpa using hn⟩

end Sys2Proof.Machine
end

