-- ==== Sys2Proof/Laws/Exec.lean ====
section
/-! SUPPORT. Inversion: if an instruction, or a step, answers a next state, then which one. -/

namespace Sys2Proof.Machine

/-! ### Host commands -/

theorem exec_nop_inv {s t : State} (h : exec .nop s = .next t) : t = s.respond 0 := by
  injection h with h; exact h.symm

theorem exec_clr_inv {s t : State} (h : exec .clr s = .next t) : t = s.clear.respond 0 := by
  injection h with h; exact h.symm

theorem exec_putc_inv {c : Byte} {s t : State} (h : exec (.putc c) s = .next t) :
    (s.phase = .idle ∧ t = (s.putByte c).respond 0) ∨ (s.phase ≠ .idle ∧ t = s.refuse .sequence) := by
  rcases s.gate_cases (s.phase = .idle) (fun s => (s.putByte c).respond 0) with ⟨hp, hg⟩ | ⟨hp, hg⟩ <;>
    injection hg.symm.trans h with h <;> simp_all

theorem exec_endw_inv {s t : State} (h : exec .endw s = .next t) :
    (s.phase = .idle ∧ t = s.commitWord.respond 0) ∨ (s.phase ≠ .idle ∧ t = s.refuse .sequence) := by
  rcases s.gate_cases (s.phase = .idle) (fun s => s.commitWord.respond 0) with ⟨hp, hg⟩ | ⟨hp, hg⟩ <;>
    injection hg.symm.trans h with h <;> simp_all

theorem exec_resolve_inv {l : BitVec 4} {s t : State} (h : exec (.resolve l) s = .next t) :
    (l = 0 ∧ s.phase = .idle ∧ t = s.clearWord.respond (foundWord s.resolveWord)) ∨
      (l = 0 ∧ s.phase ≠ .idle ∧ t = s.refuse .sequence) ∨ (l ≠ 0 ∧ t = s.refuse .illegal) := by
  simp only [exec, execResolve] at h
  split at h
  · rcases s.gate_cases (s.phase = .idle) (fun s => s.clearWord.respond (foundWord s.resolveWord)) with
      ⟨hp, hg⟩ | ⟨hp, hg⟩ <;> injection hg.symm.trans h with h <;> simp_all
  · injection h with h; simp_all

theorem exec_decode_inv {s t : State} (h : exec .decode s = .next t) :
    (s.phase = .idle ∧ t = { s.clearWord with phase := .sCount }) ∨ (s.phase ≠ .idle ∧ t = s.refuse .sequence) := by
  rcases s.gate_cases (s.phase = .idle) (fun s => { s.clearWord with phase := .sCount }) with ⟨hp, hg⟩ | ⟨hp, hg⟩ <;>
    injection hg.symm.trans h with h <;> simp_all

theorem exec_rdst_inv {s t : State} (h : exec .rdst s = .next t) : t = s.respond s.status := by
  injection h with h; exact h.symm

theorem exec_rdout_inv {i : BitVec 5} {s t : State} (h : exec (.rdout i) s = .next t) :
    (s.phase = .done ∧ t = s.respond (s.out[i.toFin].setWidth 16)) ∨ (s.phase ≠ .done ∧ t = s.refuse .sequence) := by
  rcases s.gate_cases (s.phase = .done) (fun s => s.respond (s.out[i.toFin].setWidth 16)) with ⟨hp, hg⟩ | ⟨hp, hg⟩ <;>
    injection hg.symm.trans h with h <;> simp_all

/-! ### Micro-operations -/

theorem exec_sCount_inv {s t : State} (h : exec .sCount s = .next t) :
    (s.wcnt.val = 12 ∧ t = { s with phase := .sLangsel }) ∨ (s.wcnt.val ≠ 12 ∧ t = s.raise .wordCount 0) := by
  injection h with h; split at h <;> simp_all

theorem exec_sResolvew_inv {s t : State} (h : exec .sResolvew s = .next t) :
    (∃ i, s.resolveSlot = some i ∧ s.widx.val = 11 ∧
        t = { s with idx := s.idx.set s.widx.val i, phase := .sPack }) ∨
      (∃ i, s.resolveSlot = some i ∧ s.widx.val < 11 ∧
        t = { s with idx := s.idx.set s.widx.val i, widx := nextSlot s.widx }) ∨
      (s.resolveSlot = none ∧ t = s.raise .unknownWord s.widx) := by
  injection h with h
  cases hr : s.resolveSlot with
  | none => simp only [hr] at h; exact .inr (.inr ⟨rfl, h.symm⟩)
  | some i =>
    simp only [hr, State.recordIndex] at h
    split at h
    · exact .inl ⟨i, rfl, by assumption, h.symm⟩
    · exact .inr (.inl ⟨i, rfl, by omega, h.symm⟩)

theorem exec_sCheck_inv {s t : State} (h : exec .sCheck s = .next t) :
    (chkOf s.bits = 0 ∧ t = { s with phase := .sUnpack }) ∨ (chkOf s.bits ≠ 0 ∧ t = s.raise .checksum 0) := by
  injection h with h; split at h <;> simp_all

/-! ### Steps -/

/-- The phases inside DECODE and the micro-operation each selects. -/
theorem State.microOp_cases {s : State} {i : Instr} (h : s.microOp = some i) :
    (s.phase = .sCount ∧ i = .sCount) ∨ (s.phase = .sLangsel ∧ i = .sLangsel) ∨
      (s.phase = .sResolvew ∧ i = .sResolvew) ∨ (s.phase = .sPack ∧ i = .sPack) ∨ (s.phase = .sSplit ∧ i = .sSplit) ∨
      (s.phase = .sCheck ∧ i = .sCheck) ∨ (s.phase = .sUnpack ∧ i = .sUnpack) ∨ (s.phase = .sDup ∧ i = .sDup) := by
  cases hp : s.phase <;> simp_all [State.microOp, Phase.resting, Phase.code, decodeMicro, Except.toOption]

theorem State.microOp_none {s : State} (h : s.microOp = none) : s.phase.resting = true := by
  cases hp : s.phase <;> simp_all [State.microOp, Phase.resting, Phase.code, decodeMicro, Except.toOption]

/-- Everything a step can do: hard reset, a micro-operation, holding, a legal command, an illegal word. -/
theorem step_inv {s t : State} (h : step s = .next t) :
    (s.resetAsserted = true ∧ t = s.takeSample.hardReset) ∨
      (s.resetAsserted = false ∧ ∃ i u, s.takeSample.microOp = some i ∧ exec i s.takeSample = .next u ∧
        t = u.endDecode) ∨
      (s.resetAsserted = false ∧ s.phase.resting = true ∧ s.cmds = [] ∧ t = s.takeSample) ∨
      (s.resetAsserted = false ∧ s.phase.resting = true ∧ ∃ w ws i, s.cmds = w :: ws ∧ decodeCommand w = .ok i ∧
        exec i { s.takeSample with cmds := ws } = .next t) ∨
      (s.resetAsserted = false ∧ s.phase.resting = true ∧ ∃ w ws r, s.cmds = w :: ws ∧ decodeCommand w = .error r ∧
        t = ({ s.takeSample with cmds := ws } : State).refuse .illegal) := by
  cases hr : s.resetAsserted with
  | true =>
    rw [step_reset hr] at h
    injection h with h
    exact .inl ⟨rfl, h.symm⟩
  | false =>
    rw [step_run hr] at h
    cases hm : s.takeSample.microOp with
    | some i =>
      obtain ⟨u, hu⟩ := exec_next i s.takeSample
      simp only [State.advance, hm, runMicro_next hu] at h
      injection h with h
      exact .inr (.inl ⟨rfl, i, u, rfl, hu, h.symm⟩)
    | none =>
      have hq : s.phase.resting = true := by simpa using State.microOp_none hm
      simp only [State.advance, hm] at h
      rcases s.takeSample.accept_cases with ⟨hc, ha⟩ | ⟨w, ws, i, hc, hd, ha⟩ | ⟨w, ws, r, hc, hd, ha⟩
      · rw [ha] at h; injection h with h
        exact .inr (.inr (.inl ⟨rfl, hq, by simpa using hc, h.symm⟩))
      · rw [ha] at h
        exact .inr (.inr (.inr (.inl ⟨rfl, hq, w, ws, i, by simpa using hc, hd, h⟩)))
      · rw [ha] at h; injection h with h
        exact .inr (.inr (.inr (.inr ⟨rfl, hq, w, ws, r, by simpa using hc, hd, h.symm⟩)))

/-- No command word decodes to a micro-operation, and a decoded RESOLVE has language code 0. -/
theorem decodeCommand_ok {w : CmdWord} {i : Instr} (h : decodeCommand w = .ok i) :
    i.isCommand = true ∧ i.wellFormed = true := by
  unfold decodeCommand decodeNoOperand decodePutc decodeResolve decodeRdout at h
  repeat' split at h
  all_goals first
    | (injection h with h; subst h; simp_all [Instr.isCommand, Instr.wellFormed])
    | cases h

end Sys2Proof.Machine
end

