-- ==== Sys2Proof/Laws/PerInstr.lean ====
section
/-! SUPPORT. A family of statements about every instruction as syntax: its bits lie in its row of the opcode table. -/

namespace Sys2Proof.Laws.EncodesInRow

/-- `match` and `mask` of a level-H row, or the `PHASE` code of a level-S row (opcode_table.json, 30_encoding.md R83, R84). -/
def row : Instr → CmdWord × CmdWord ⊕ BitVec 4
  | .nop => .inl (0x0000, 0xFFFF)
  | .clr => .inl (0x1000, 0xFFFF)
  | .putc _ => .inl (0x2000, 0xFF00)
  | .endw => .inl (0x3000, 0xFFFF)
  | .resolve _ => .inl (0x4000, 0xFFFF)
  | .decode => .inl (0x5000, 0xFFFF)
  | .rdst => .inl (0x6000, 0xFFFF)
  | .rdout _ => .inl (0x7000, 0xFFE0)
  | .sCount => .inr 1
  | .sLangsel => .inr 2
  | .sResolvew => .inr 3
  | .sPack => .inr 4
  | .sSplit => .inr 5
  | .sCheck => .inr 6
  | .sUnpack => .inr 7
  | .sDup => .inr 8
  | .sFinish => .inr 9
  | .sFail _ _ => .inr 10

/-- The bits fit the row. -/
def fits : Encoded → CmdWord × CmdWord ⊕ BitVec 4 → Prop
  | .command w, .inl (m, mask) => w &&& mask = m
  | .micro c, .inr code => c = code
  | _, _ => False

/-- A well-formed instruction's bits lie in its row. -/
def Statement (i : Instr) : Prop := i.wellFormed = true → fits (encode i) (row i)

theorem nop : Statement .nop := fun _ => rfl
theorem clr : Statement .clr := fun _ => rfl
theorem putc (c : Byte) : Statement (.putc c) := fun _ => by
  show ((0x20#8 ++ c : BitVec 16) &&& 0xFF00) = 0x2000
  revert c; decide +kernel
theorem endw : Statement .endw := fun _ => rfl
theorem resolve (l : BitVec 4) : Statement (.resolve l) := fun h => by
  have h0 : l = 0 := by simpa [Instr.wellFormed] using h
  subst h0; rfl
theorem decode : Statement .decode := fun _ => rfl
theorem rdst : Statement .rdst := fun _ => rfl
theorem rdout (i : BitVec 5) : Statement (.rdout i) := fun _ => by
  show ((0x380#11 ++ i : BitVec 16) &&& 0xFFE0) = 0x7000
  revert i; decide +kernel
theorem sCount : Statement .sCount := fun _ => rfl
theorem sLangsel : Statement .sLangsel := fun _ => rfl
theorem sResolvew : Statement .sResolvew := fun _ => rfl
theorem sPack : Statement .sPack := fun _ => rfl
theorem sSplit : Statement .sSplit := fun _ => rfl
theorem sCheck : Statement .sCheck := fun _ => rfl
theorem sUnpack : Statement .sUnpack := fun _ => rfl
theorem sDup : Statement .sDup := fun _ => rfl
theorem sFinish : Statement .sFinish := fun _ => rfl
theorem sFail (kind : ErrKind) (pos : Fin 12) : Statement (.sFail kind pos) := fun _ => rfl

end Sys2Proof.Laws.EncodesInRow
end

