-- ==== Sys2Proof/Laws/Placing.lean ====
section
/-! SUPPORT. A placed instruction is the next one a step takes. -/

namespace Sys2Proof.Machine

/-- From reset, a placed legal command word is executed as the first instruction. -/
theorem step_placeCommand_reset {w : CmdWord} {i : Instr} (h : decodeCommand w = .ok i) :
    step (State.reset.placeCommand w) = exec i State.reset := by
  rw [step_run rfl, State.advance_resting rfl]
  simp only [State.accept, State.takeSample, State.placeCommand, State.releaseReset, State.resetAsserted]
  simp only [State.reset, List.headD_nil, Bool.false_eq_true, if_false, List.tail_nil, Phase.resting, if_true, h]

/-- A state with no reset sample pending and a resting phase accepts a placed word in that phase. -/
theorem step_placeCommand {s : State} (hr : s.rst = []) (hq : s.phase.resting = true) {w : CmdWord} {i : Instr}
    (h : decodeCommand w = .ok i) : step (s.placeCommand w) = exec i s := by
  have hp : s.placeCommand w = { s with cmds := w :: s.cmds } := by
    simp [State.placeCommand, State.releaseReset, State.resetAsserted, hr, hq]
  rw [hp, step_run (by simp [State.resetAsserted, hr]), State.advance_resting (by simpa using hq)]
  simp only [State.accept, State.takeSample, h, hr, List.tail_nil]
  simp only [← hr]

/-- Codes 1 to 8 place the micro-operation they select. -/
theorem step_placeMicro_reset :
    step (State.reset.placeMicro 1) = runMicro .sCount { State.reset with phase := .sCount } ∧
    step (State.reset.placeMicro 2) = runMicro .sLangsel { State.reset with phase := .sLangsel } ∧
    step (State.reset.placeMicro 3) = runMicro .sResolvew { State.reset with phase := .sResolvew } ∧
    step (State.reset.placeMicro 4) = runMicro .sPack { State.reset with phase := .sPack } ∧
    step (State.reset.placeMicro 5) = runMicro .sSplit { State.reset with phase := .sSplit } ∧
    step (State.reset.placeMicro 6) = runMicro .sCheck { State.reset with phase := .sCheck } ∧
    step (State.reset.placeMicro 7) = runMicro .sUnpack { State.reset with phase := .sUnpack } ∧
    step (State.reset.placeMicro 8) = runMicro .sDup { State.reset with phase := .sDup } :=
  ⟨rfl, rfl, rfl, rfl, rfl, rfl, rfl, rfl⟩

/-- Codes 9 and 10 place a step whose effect is the entry action, and DECODE's answer with it. -/
theorem step_placeMicro_entry :
    step (State.reset.placeMicro 9) = runMicro .sFinish State.reset ∧
    step (State.reset.placeMicro 10) = runMicro (.sFail .wordCount 0) State.reset := ⟨rfl, rfl⟩

end Sys2Proof.Machine
end

