-- ==== Sys2Proof/Laws/Runs.lean ====
section
/-! SUPPORT. Runs of several steps, taken apart and put together. -/

namespace Sys2Proof.Machine

theorem Runs.refl (s : State) : Runs 0 s s := rfl

/-- One step, then `n` more, of any machine. -/
theorem core_run_cons (M : Host.Core) {n : Nat} {s u t : M.State} (h : M.step s = .next u) (hr : M.run n u = .next t) :
    M.run (n + 1) s = .next t := by
  simp only [Host.Core.run, h]
  exact hr

/-- A run of `n + 1` steps that does not stop begins with a step that does not stop. -/
theorem core_run_head (M : Host.Core) {n : Nat} {s t : M.State} (hr : M.run (n + 1) s = .next t) :
    ∃ u, M.step s = .next u ∧ M.run n u = .next t := by
  simp only [Host.Core.run] at hr
  split at hr
  · exact ⟨_, by assumption, hr⟩
  · cases hr
  · cases hr

theorem Runs.cons {n : Nat} {s u t : State} (h : step s = .next u) (hr : Runs n u t) : Runs (n + 1) s t :=
  core_run_cons Sys2Proof.core h hr

theorem Runs.head {n : Nat} {s t : State} (hr : Runs (n + 1) s t) : ∃ u, step s = .next u ∧ Runs n u t :=
  core_run_head Sys2Proof.core hr

theorem Runs.append {m n : Nat} {s u t : State} (h : Runs m s u) (hr : Runs n u t) : Runs (m + n) s t := by
  induction m generalizing s with
  | zero =>
    have : s = u := by injection h
    subst this
    simpa using hr
  | succ m ih =>
    obtain ⟨v, hv, hu⟩ := h.head
    have := Runs.cons hv (ih hu)
    rwa [show m + n + 1 = m + 1 + n by omega] at this

/-- With the reset input never asserted a step is one of the command port or the sequencer. -/
theorem step_noReset {s : State} (h : s.rst = []) : step s = s.advance := by
  have ht : s.takeSample = s := by
    simp only [State.takeSample, h, List.tail_nil]
    rw [← h]
  rw [step_run (by simp [State.resetAsserted, h]), ht]

end Sys2Proof.Machine
end

