-- ==== Sys2Proof/Tests/Slice0.lean ====
section
/-! SUPPORT. The model's own tests, and for every obligation with hypotheses a witness that meets them. Expected results
are from 95_test_vectors.md and the rules' own examples. -/

namespace Sys2Proof.Tests

open Sys2Proof Sys2Proof.Machine

/-! ### Small states -/

/-- A dictionary with one entry set, all others the empty word. -/
def dictWith (i : Nat) (h : i < 2048) (w : Word) : Vector Word 2048 := (Vector.replicate 2048 []).set i w h

/-- `act`, `ACT`, `zzzz` as bytes. -/
def act : Word := [0x61, 0x63, 0x74]
def ACT : Word := [0x41, 0x43, 0x54]
def zzzz : Word := [0x7A, 0x7A, 0x7A, 0x7A]

/-- The reset registers over a dictionary whose entry 0 is `act`. -/
def st : State := { State.reset with dict := dictWith 0 (by omega) act }

/-- `st` in another phase. -/
def stIn (p : Phase) : State := { st with phase := p }

/-- `st` with one command word at the port. -/
def stCmd (w : CmdWord) : State := { st with cmds := [w] }

/-- A state after a failed DECODE with `n` words counted. -/
def stFail (k : ErrKind) (pos : Fin 12) (n : Fin 14) : State :=
  { st with phase := .fail, err := some k, errpos := pos, wcnt := n }

/-- A state after a successful DECODE of zero entropy. -/
def stDone : State := { st with phase := .done, wcnt := 12 }

/-! ### WellFormed refuses an ill-formed term of each kind -/

theorem test_wellFormed_resolve : (Instr.resolve 0).wellFormed = true ∧ (Instr.resolve 1).wellFormed = false := by decide
theorem test_wellFormed_sFail :
    (Instr.sFail .unknownWord 11).wellFormed = true ∧ (Instr.sFail .wordCount 1).wellFormed = false ∧
      (Instr.sFail .checksum 3).wellFormed = false := by decide

/-! ### Decoding words written out from the encodings (95_test_vectors.md section 3.7) -/

theorem test_decode_nop : decodeTableWord 16 0b0000000000000000 = some .nop := by decide
theorem test_decode_clr : decodeTableWord 16 0b0001000000000000 = some .clr := by decide
theorem test_decode_putc : decodeTableWord 16 0b0010000001000001 = some (.putc 0x41) := by decide
theorem test_decode_endw : decodeTableWord 16 0b0011000000000000 = some .endw := by decide
theorem test_decode_resolve : decodeTableWord 16 0b0100000000000000 = some (.resolve 0) := by decide
theorem test_decode_decode : decodeTableWord 16 0b0101000000000000 = some .decode := by decide
theorem test_decode_rdst : decodeTableWord 16 0b0110000000000000 = some .rdst := by decide
theorem test_decode_rdout : decodeTableWord 16 0b0111000000011111 = some (.rdout 31) := by decide
theorem test_decode_illegal :
    decodeCommand 0x0001 = .error .reservedBits ∧ decodeCommand 0x2141 = .error .reservedBits ∧
      decodeCommand 0x4001 = .error .reservedLanguage ∧ decodeCommand 0x4010 = .error .reservedBits ∧
      decodeCommand 0x7020 = .error .reservedBits ∧ decodeCommand 0x8000 = .error .reservedOpcode ∧
      decodeCommand 0xFFFF = .error .reservedOpcode := by decide
theorem test_decode_micro :
    [1, 2, 3, 4, 5, 6, 7, 8, 9, 10].map (decodeTableWord 8) =
      [some .sCount, some .sLangsel, some .sResolvew, some .sPack, some .sSplit, some .sCheck, some .sUnpack, some .sDup,
        some .sFinish, some (.sFail .wordCount 0)] := by decide
theorem test_decode_micro_reserved :
    decodeMicro 0 .wordCount 0 = .error .idlePhase ∧ decodeMicro 11 .wordCount 0 = .error .reservedPhase ∧
      decodeMicro 15 .wordCount 0 = .error .reservedPhase := by decide

/-! ### Operands and flags -/

/-- 95_test_vectors.md section 3.1. -/
theorem test_lower :
    [0x40, 0x41, 0x5A, 0x5B, 0x60, 0x61, 0x7A, 0x00, 0x20, 0xC1, 0xFF].map lower =
      [0x40, 0x61, 0x7A, 0x5B, 0x60, 0x61, 0x7A, 0x00, 0x20, 0xC1, 0xFF] := by decide
/-- 95_test_vectors.md section 3.2: `catch`, `catc`, `cat`, `cats` against `catch` and `cat`. -/
theorem test_match :
    wordMatch [0x63, 0x61, 0x74, 0x63] [0x63, 0x61, 0x74, 0x63, 0x68] = true ∧
      wordMatch [0x63, 0x61, 0x74] [0x63, 0x61, 0x74, 0x63, 0x68] = false ∧
      wordMatch [0x63, 0x61, 0x74] [0x63, 0x61, 0x74] = true ∧
      wordMatch [0x63, 0x61, 0x74, 0x73] [0x63, 0x61, 0x74] = false ∧ wordMatch [] [] = true := by decide
/-- Scenario 1's indices and stream (95_test_vectors.md section 1.1). -/
theorem test_pack_scenario :
    pack #v[288, 1337, 348, 940, 1538, 952, 1802, 1274, 904, 251, 53, 688] = 0x2414E4AE3ACC04EE3854FA7103EC1AAB0 := by
  decide
theorem test_pack_sequence :
    pack #v[1, 2, 3, 4, 5, 6, 7, 8, 9, 10, 11, 12] = 0x0020080180400A018038080120280580C := by decide
/-- 95_test_vectors.md section 3.5. -/
theorem test_unpack_scenario :
    unpack16 0x2414E4AE3ACC04EE3854FA7103EC1AAB =
      #v[0x24, 0x14, 0xE4, 0xAE, 0x3A, 0xCC, 0x04, 0xEE, 0x38, 0x54, 0xFA, 0x71, 0x03, 0xEC, 0x1A, 0xAB] := by decide
theorem test_unpack_short_group :
    unpackBytes [true, true, false, false, false, false, false, false, true] 8 = [0xC0, 0x01] := by decide
/-- 95_test_vectors.md section 3.8. -/
theorem test_status_words :
    statusWord 5 false 0 none .idle = 0x2800 ∧ statusWord 12 false 0 none .done = 0x6009 ∧
      statusWord 11 false 0 (some .wordCount) .fail = 0x581A ∧
      statusWord 12 false 3 (some .unknownWord) .fail = 0x60EA ∧
      statusWord 12 false 11 (some .unknownWord) .fail = 0x62EA ∧
      statusWord 12 false 0 (some .checksum) .fail = 0x603A ∧ statusWord 0 true 0 none .idle = 0x0400 := by decide
/-- `RESOLVE => 0x0920` for index 288, `0x0FFF` for 2047, `0x0800` for 0 (R109, section 3.3). -/
theorem test_found_words :
    foundWord (some 288) = 0x0920 ∧ foundWord (some 2047) = 0x0FFF ∧ foundWord (some 0) = 0x0800 ∧
      foundWord none = 0 := by decide
/-- `WORD "Poet"` (R90). -/
theorem test_asm_word : asmWord [0x50, 0x6F, 0x65, 0x74] = [0x2050, 0x206F, 0x2065, 0x2074, 0x3000] := by decide
theorem test_asm_phrase_cut : cutAtSpaces [] [0x61, 0x20, 0x62, 0x62] = [[0x61], [0x62, 0x62]] := by decide

/-! ### Instructions, one step each -/

/-- A next state's field. -/
def answers {α : Type} [DecidableEq α] (r : Result) (f : State → α) (v : α) : Bool :=
  match r with
  | .next t => decide (f t = v)
  | _ => false

theorem test_nop : answers (step (stCmd 0x0000)) (·.rsps) [0x0000] = true := by decide
theorem test_clr_keeps_cmderr :
    answers (exec .clr { stFail .unknownWord 3 12 with cmderr := true }) (fun t => (t.status, t.cmderr)) (0x0400, true) =
      true := by decide
theorem test_putc_first : answers (step (stCmd 0x2050)) (·.wbuf) ⟨1, #v[0x50, 0, 0, 0]⟩ = true := by decide
theorem test_putc_fifth_dropped :
    answers (exec (.putc 0x65) { st with wbuf := key zzzz }) (·.wbuf) (key zzzz) = true := by decide
theorem test_endw_thirteenth_saturates :
    answers (exec .endw { st with wcnt := 13 }) (fun t => (t.wcnt, t.ph)) (13, Vector.replicate 12 Key.empty) = true := by
  decide
theorem test_endw_last_slot :
    answers (exec .endw { st with wcnt := 11, wbuf := key ACT }) (fun t => (t.wcnt, t.ph[11])) (12, key ACT) = true := by
  decide
theorem test_resolve_lowercases :
    answers (exec (.resolve 0) { st with wbuf := key ACT }) (fun t => (t.rsps, t.wbuf)) ([0x0800], Key.empty) = true := by
  decide
theorem test_resolve_reserved_language :
    answers (step { stDone with cmds := [0x4001] }) (fun t => (t.rsps, t.cmderr)) ([0x8001], true) = true := by decide
theorem test_decode_enters_s_count :
    answers (exec .decode { st with wbuf := key act }) (fun t => (t.phase, t.wbuf, t.rsps)) (.sCount, Key.empty, []) =
      true := by decide
theorem test_rdst_after_reset : answers (step (stCmd 0x6000)) (·.rsps) [0x0000] = true := by decide
theorem test_rdout_idle_refused :
    answers (step (stCmd 0x7000)) (fun t => (t.rsps, t.cmderr, t.phase)) ([0x8002], true, .idle) = true := by decide
theorem test_rdout_done : answers (step { stDone with cmds := [0x701F] }) (·.rsps) [0x0000] = true := by decide
theorem test_illegal_wins_over_sequence : answers (step (stCmd 0x7020)) (·.rsps) [0x8001] = true := by decide
/-- `WCNT = 11` gives `PHASE = FAIL`, `ERR = 1`, and DECODE answers (R138). -/
theorem test_s_count_eleven :
    answers (step { stIn .sCount with wcnt := 11 }) (fun t => (t.status, t.rsps)) (0x581A, [0x0000]) = true := by decide
theorem test_s_langsel : answers (step { stIn .sLangsel with widx := 7 }) (fun t => (t.phase, t.widx)) (.sResolvew, 0) =
    true := by decide
theorem test_s_resolvew_first :
    answers (step { stIn .sResolvew with ph := (Vector.replicate 12 Key.empty).set 0 (key ACT) })
      (fun t => (t.phase, t.widx, t.idx[0])) (.sResolvew, 1, 0) = true := by decide
theorem test_s_pack :
    answers (step { stIn .sPack with idx := (Vector.replicate 12 0).set 11 16 }) (fun t => (t.bits, t.phase))
      (0x10, .sSplit) = true := by decide
theorem test_s_split : answers (step { stIn .sSplit with bits := 5 }) (fun t => (t.bits, t.phase)) (5, .sCheck) = true := by
  decide
theorem test_s_check_passes : answers (step { stIn .sCheck with bits := 0x2B0 }) (·.phase) .sUnpack = true := by decide
theorem test_s_check_fails :
    answers (step { stIn .sCheck with bits := 0x2B1, wcnt := 12 }) (·.status) 0x603A = true := by decide
theorem test_s_unpack :
    answers (step { stIn .sUnpack with bits := 0x800000000000000000000000000000010 })
      (fun t => (t.eb[0], t.eb[15], t.phase)) (0x80, 0x01, .sDup) = true := by decide
theorem test_s_dup :
    answers (step { stIn .sDup with eb := (Vector.replicate 16 0).set 15 0xAB, wcnt := 12 })
      (fun t => (t.out[15], t.out[31], t.out[14], t.status, t.rsps)) (0xAB, 0xAB, 0x00, 0x6009, [0x0000]) = true := by decide
theorem test_s_finish :
    answers (exec .sFinish { stIn .sDup with widx := 11, bits := 3 }) (fun t => (t.widx, t.bits, t.phase)) (0, 0, .done) =
      true := by decide
theorem test_s_fail :
    answers (exec (.sFail .unknownWord 3) { stIn .sResolvew with wcnt := 12 }) (·.status) 0x60EA = true := by decide
theorem test_hard_reset_inside_decode :
    answers (step { stIn .sPack with rst := [true], cmderr := true, wcnt := 12 }) (fun t => (t.status, t.rsps)) (0, []) =
      true := by decide
theorem test_place_first_command : answers (step (State.reset.withFetchWord 16 0x2050)) (·.wbuf.len) 1 = true := by decide
theorem test_place_first_micro : answers (step (State.reset.withFetchWord 8 2)) (·.phase) .sResolvew = true := by decide

/-! ### Witnesses: hypotheses of the obligations, met together -/

theorem witness_EncodedInstructionsDecodeBack :
    (Instr.resolve 0).wellFormed = true ∧ (Instr.sFail .unknownWord 11).wellFormed = true ∧
      (Instr.putc 0xFF).wellFormed = true := by decide
theorem witness_OpcodeMapDecodes :
    (0x0000#16 &&& 0xFFFF = 0x0000) ∧ (0x1000#16 &&& 0xFFFF = 0x1000) ∧ (0x20FF#16 &&& 0xFF00 = 0x2000) ∧
      (0x3000#16 &&& 0xFFFF = 0x3000) ∧ (0x4000#16 &&& 0xFFFF = 0x4000) ∧ (0x5000#16 &&& 0xFFFF = 0x5000) ∧
      (0x6000#16 &&& 0xFFFF = 0x6000) ∧ (0x701F#16 &&& 0xFFE0 = 0x7000) := by decide
theorem witness_OpcodeMapDecodes_none :
    (0x7020#16 ≠ 0x0000 ∧ 0x7020#16 ≠ 0x1000 ∧ 0x7020#16 &&& 0xFF00 ≠ 0x2000 ∧ 0x7020#16 ≠ 0x3000) ∧
      (0x7020#16 ≠ 0x4000 ∧ 0x7020#16 ≠ 0x5000 ∧ 0x7020#16 ≠ 0x6000 ∧ 0x7020#16 &&& 0xFFE0 ≠ 0x7000) := by decide

/-- A word that decodes to an error decodes to no instruction. -/
theorem not_ok_of_error {w : CmdWord} {r : Reject} (h : decodeCommand w = .error r) : ∀ i, decodeCommand w ≠ .ok i := by
  intro i hi; rw [h] at hi; cases hi

theorem witness_IllegalWordsAreRefused : ∀ i, decodeCommand 0x8000 ≠ .ok i := not_ok_of_error (r := .reservedOpcode) (by decide)
/-- The hypotheses inside `RefusedIllegal`, in a phase where the command would also be out of phase. -/
theorem witness_RefusedIllegal :
    ({ stDone with cmds := [0x2100] } : State).resetAsserted = false ∧
      ({ stDone with cmds := [0x2100] } : State).phase.resting = true ∧
      ({ stDone with cmds := [0x2100] } : State).cmds = 0x2100 :: [] := by decide
/-- The ends of the ranges of illegal words in the commands' own rules. -/
theorem witness_illegal_ranges :
    [0x0001, 0x0FFF, 0x1001, 0x1FFF, 0x2100, 0x2FFF, 0x3001, 0x3FFF, 0x4001, 0x4FFF, 0x5001, 0x5FFF, 0x6001, 0x6FFF,
      0x7020, 0x7FFF].all (fun w => (decodeCommand w).toOption.isNone) = true := by decide
theorem witness_StepRunsTheDecodedCommand :
    (stCmd 0x5000).resetAsserted = false ∧ (stCmd 0x5000).phase.resting = true ∧ (stCmd 0x5000).cmds = 0x5000 :: [] ∧
      decodeCommand 0x5000 = .ok .decode := by decide
theorem witness_StepRunsTheSelectedMicroOperation :
    [(Phase.sCount, Instr.sCount), (.sLangsel, .sLangsel), (.sResolvew, .sResolvew), (.sPack, .sPack), (.sSplit, .sSplit),
      (.sCheck, .sCheck), (.sUnpack, .sUnpack), (.sDup, .sDup)].all
        (fun q => decide ((stIn q.1).phase = q.1) && !(stIn q.1).resetAsserted) = true := by decide
theorem witness_StepHoldsWithoutACommand :
    stDone.resetAsserted = false ∧ stDone.phase.resting = true ∧ stDone.cmds = [] := by decide
theorem witness_HardResetClearsEveryRegister :
    ({ stIn .sPack with rst := [true] } : State).resetAsserted = true := by decide
theorem witness_HardResetClearsEveryRegister_cmderr :
    step { st with rst := [true], cmderr := true } = .next { st with rst := [], cmderr := false } := rfl
theorem witness_PutcAppendsACharacter :
    st.phase = .idle ∧ ({ st with wbuf := key act } : State).wbuf.len.val < 4 ∧
      ({ st with wbuf := key zzzz } : State).wbuf.len = 4 ∧ stDone.phase ≠ .idle ∧ (stIn .fail).phase ≠ .idle := by decide
theorem witness_EndwCommitsTheWord :
    st.phase = .idle ∧ ({ st with wcnt := 11 } : State).wcnt.val < 12 ∧ 12 ≤ ({ st with wcnt := 12 } : State).wcnt.val ∧
      stDone.phase ≠ .idle := by decide
/-- The least index at both ends of the dictionary. -/
theorem witness_least_first : LeastIndex (dictWith 0 (by omega) act) (lowerKey (key ACT)) 0 :=
  ⟨by decide, fun j hj => absurd hj (by simp)⟩
theorem witness_least_last : LeastIndex (dictWith 2047 (by omega) act) (lowerKey (key ACT)) 2047 := by
  have h : (dictWith 2047 (by omega) act)[2047] = act := by simp [dictWith]
  refine ⟨(congrArg key h).trans (by decide), fun j hj => ?_⟩
  have hne : (2047 : Nat) ≠ j.val := by
    have : j.val < 2047 := hj
    omega
  simp only [dictWith]
  rw [Vector.getElem_set_ne _ _ hne, Vector.getElem_replicate]
  decide
theorem witness_no_index : NoIndex (dictWith 2047 (by omega) act) (lowerKey (key zzzz)) := by
  intro j
  simp only [dictWith, Vector.getElem_set, Vector.getElem_replicate]
  split <;> decide
theorem witness_ResolveAnswersTheLeastIndex :
    st.phase = .idle ∧ LeastIndex ({ st with wbuf := key ACT } : State).dict (lowerKey (key ACT)) 0 ∧
      stDone.phase ≠ .idle ∧ (1 : BitVec 4) ≠ 0 ∧ (15 : BitVec 4) ≠ 0 :=
  ⟨rfl, witness_least_first, by decide, by decide, by decide⟩
theorem witness_DecodeEntersTheSequencer : st.phase = .idle ∧ stDone.phase ≠ .idle := by decide
theorem witness_RdstReadsTheStatusWord : st.phase.resting = true ∧ stDone.phase.resting = true := by decide

/-- A state after a successful DECODE meets the invariant. -/
theorem stDone_inv : stDone.Inv := by
  have hph : ∀ k : Fin 12, stDone.ph[k.val] = Key.empty := fun k => by simp [stDone, st, State.reset]
  exact
    { wbufWF := fun j _ => by simp [stDone, st, State.reset, Key.empty]
      phWF := fun k j _ => by rw [hph]; simp [Key.empty]
      phUnused := fun k _ => hph k
      quiet := fun _ => ⟨rfl, rfl, rfl, rfl⟩
      noWord := fun _ => rfl
      noPhrase := fun _ => rfl
      noOutput := fun h => absurd rfl h
      halves := fun _ j => by simp [stDone, st, State.reset]
      errIffFail := by simp [stDone, st, State.reset]
      errposUnknown := by simp [stDone, st, State.reset]
      twelve := fun _ _ _ => rfl
      countErr := by simp [stDone] }

/-- A state after a failed DECODE meets the invariant. -/
theorem stFail_inv (k : ErrKind) (pos : Fin 12) (n : Fin 14) (h1 : pos ≠ 0 → k = .unknownWord)
    (h2 : k = .wordCount ↔ n.val ≠ 12) : (stFail k pos n).Inv := by
  have hph : ∀ j : Fin 12, (stFail k pos n).ph[j.val] = Key.empty := fun j => by simp [stFail, st, State.reset]
  exact
    { wbufWF := fun j _ => by simp [stFail, st, State.reset, Key.empty]
      phWF := fun k j _ => by rw [hph]; simp [Key.empty]
      phUnused := fun k _ => hph k
      quiet := fun _ => ⟨rfl, rfl, rfl, rfl⟩
      noWord := fun _ => rfl
      noPhrase := fun _ => rfl
      noOutput := fun _ => rfl
      halves := by simp [stFail]
      errIffFail := by simp [stFail]
      errposUnknown := by simpa [stFail] using h1
      twelve := by simp [stFail]
      countErr := by simpa [stFail] using h2 }

theorem witness_RdoutReadsAByte :
    stDone.Inv ∧ stDone.phase = .done ∧ (15 : BitVec 5).toNat < 16 ∧ st.phase ≠ .done :=
  ⟨stDone_inv, rfl, by decide, by decide⟩
theorem witness_PhaseTableGatesCommands :
    (Instr.rdout 31).isCommand = true ∧ (Instr.rdout 31).wellFormed = true ∧ stDone.phase.resting = true ∧
      allowedIn (.rdout 31) stDone.phase = true ∧ allowedIn (.rdout 31) st.phase = false := by decide
theorem witness_CountTestsForTwelveWords :
    ({ stIn .sCount with wcnt := 12 } : State).wcnt.val = 12 ∧ ({ stIn .sCount with wcnt := 13 } : State).wcnt.val ≠ 12 ∧
      ({ stIn .sCount with wcnt := 11 } : State).wcnt.val ≠ 12 := by decide
/-- A phrase of twelve words `ACT`, at word `k`. -/
def stAt (k : Fin 12) : State := { stIn .sResolvew with ph := Vector.replicate 12 (key ACT), widx := k, wcnt := 12 }
theorem witness_ResolvewResolvesOneWord (k : Fin 12) :
    LeastIndex (stAt k).dict (lowerKey (stAt k).ph[(stAt k).widx.val]) 0 ∧ (stAt 10).widx.val < 11 ∧
      (stAt 11).widx.val = 11 ∧ (stAt k).ph[(stAt k).widx.val] = key ACT := by
  have h : (stAt k).ph[(stAt k).widx.val] = key ACT := by simp [stAt]
  exact ⟨h ▸ witness_least_first, by decide, by decide, h⟩
theorem witness_ResolvewResolvesOneWord_none :
    NoIndex (dictWith 2047 (by omega) act)
      (lowerKey (({ stAt 3 with ph := Vector.replicate 12 (key zzzz), dict := dictWith 2047 (by omega) act } : State).ph[3])) := by
  have h : (({ stAt 3 with ph := Vector.replicate 12 (key zzzz), dict := dictWith 2047 (by omega) act } : State).ph[3]) =
      key zzzz := by simp
  rw [h]; exact witness_no_index
theorem witness_CheckRequiresZeroChecksum : chkOf 0x2B0 = 0 ∧ chkOf 0x2B1 ≠ 0 ∧ chkOf 0x2B8 ≠ 0 := by decide
theorem witness_LowerChangesOnlyCapitals :
    0x41 ≤ (0x41 : Byte).toNat ∧ (0x5A : Byte).toNat ≤ 0x5A ∧ (0x40 : Byte).toNat < 0x41 ∧ 0x5A < (0x5B : Byte).toNat := by
  decide
theorem witness_MatchIsKeyEquality :
    4 ≤ zzzz.length ∧ act.length < 4 ∧ (zzzz ++ [0x78]).take 4 = zzzz.take 4 := by decide
theorem witness_LowestIndexWins : wordMatch (lowerWord ACT) (dictWith 0 (by omega) act)[(0 : Fin 2048).val] = true := by
  decide
theorem witness_ResolveIgnoresCase : lowerWord ACT = lowerWord act := by decide
theorem witness_PackPlacesEveryIndexBit : pack (Vector.replicate 12 5) = pack (Vector.replicate 12 5) := rfl
theorem witness_UnpackBytesReadsGroups : 8 * 1 < [true, false, true, true, true, true, true, true, true].length := by decide

/-- Twelve words `act`, each at index 0 of `st`'s dictionary. -/
theorem resolve_act : resolve st.dict act = some 0 := by decide
theorem resolve_zzzz : resolve (dictWith 2047 (by omega) act) zzzz = none := by
  have hk : resolveKey (dictWith 2047 (by omega) act) (lowerKey (key zzzz)) = none := resolveKey_eq_none.mpr witness_no_index
  unfold resolve
  unfold resolveKey at hk
  rw [Option.map_eq_none_iff, List.findIdx?_eq_none_iff] at hk ⊢
  intro d hd
  have hmem : d = [] ∨ d = act := by
    obtain ⟨n, hn, rfl⟩ := List.mem_iff_getElem.mp hd
    simp only [dictWith, Vector.getElem_toList, Vector.getElem_set, Vector.getElem_replicate]
    split <;> simp
  rcases hmem with rfl | rfl <;> decide
theorem witness_DecodeReportsTheFirstDefect_unknown :
    (List.replicate 12 zzzz).length = 12 ∧ (List.replicate 12 zzzz)[0]? = some zzzz ∧
      resolve (dictWith 2047 (by omega) act) zzzz = none ∧
      ∀ (j : Nat) (v : Word), j < 0 → (List.replicate 12 zzzz)[j]? = some v →
        resolve (dictWith 2047 (by omega) act) v ≠ none :=
  ⟨by decide, by decide, resolve_zzzz, fun j _ h => absurd h (Nat.not_lt_zero j)⟩
theorem witness_DecodeReportsTheFirstDefect_count : (List.replicate 13 act).length ≠ 12 ∧ ([] : List Word).length ≠ 12 := by
  decide
theorem witness_DecodeReportsTheFirstDefect_ok :
    (List.replicate 12 act).map (resolve st.dict) = (Vector.replicate 12 (0 : Index)).toList.map some ∧
      (Vector.replicate 12 (0 : Index))[11].toNat % 16 = 0 := by
  refine ⟨?_, by decide⟩
  rw [List.map_replicate, resolve_act]; decide
/-- Entry 1 is `act`, so twelve words `act` have the checksum region 0001. -/
theorem witness_DecodeReportsTheFirstDefect_checksum :
    (List.replicate 12 act).map (resolve (dictWith 1 (by omega) act)) = (Vector.replicate 12 (1 : Index)).toList.map some ∧
      (Vector.replicate 12 (1 : Index))[11].toNat % 16 ≠ 0 := by
  refine ⟨?_, by decide⟩
  rw [List.map_replicate, show resolve (dictWith 1 (by omega) act) act = some 1 by decide]; decide
theorem decode_act : decodePhrase st.dict (List.replicate 12 act) = .ok (Vector.replicate 32 0) := by decide +kernel
theorem witness_DecodeSuccessHasEqualHalves :
    decodePhrase st.dict (List.replicate 12 act) = .ok (Vector.replicate 32 0) := decode_act
theorem witness_DecodeIgnoresCaseAndAbbreviation :
    List.Forall₂ (fun w w' => lowerWord w' = lowerWord w ∨ (4 ≤ w.length ∧ w' = w.take 4)) (List.replicate 12 act)
      (List.replicate 12 ACT) ∧ decodePhrase st.dict (List.replicate 12 act) = .ok (Vector.replicate 32 0) := by
  have h : lowerWord ACT = lowerWord act := by decide
  refine ⟨?_, decode_act⟩
  simp only [List.replicate]
  repeat' first | exact .nil | refine .cons (.inl h) ?_
theorem witness_EveryStepKeepsTheInvariant :
    stDone.Inv ∧ step { stDone with cmds := [] } = .next stDone := ⟨stDone_inv, rfl⟩
theorem witness_PhaseMovesAlongTheTable :
    step (stIn .sLangsel) = .next (stIn .sResolvew) ∧
      ({ stIn .sPack with rst := [true] } : State).resetAsserted = true := ⟨rfl, rfl⟩
theorem witness_EveryDecodeEnds : (stAt 0).phase.resting = false ∧ (stAt 0).rst = [] := by decide
theorem witness_DecodeCommandRunsToItsEnd :
    (stCmd 0x5000).phase = .idle ∧ (stCmd 0x5000).rst = [] ∧ (stCmd 0x5000).cmds = 0x5000 :: [] := by decide
/-- The shortest call: DECODE with no word sent, from a state as reset leaves it. -/
theorem witness_DecodeCommandComputesDecode :
    (stCmd 0x5000).phase = .idle ∧ (stCmd 0x5000).wcnt = 0 ∧ (stCmd 0x5000).wbuf.len = 0 ∧ (stCmd 0x5000).rst = [] ∧
      (stCmd 0x5000).cmds = [] ++ [0x5000] ∧
      ([] : List CmdWord).filter (fun w => w ≠ 0x0000 ∧ w ≠ 0x6000) = asmPhrase [] := by
  refine ⟨rfl, rfl, rfl, rfl, rfl, rfl⟩
/-- A call with one word and NOP and RDST between its bytes. -/
theorem witness_DecodeCommandComputesDecode_word :
    ([0x0000, 0x2061, 0x6000, 0x2063, 0x2074, 0x3000] : List CmdWord).filter (fun w => w ≠ 0x0000 ∧ w ≠ 0x6000) =
      asmPhrase [act] := by decide
theorem stCmd_inv (w : CmdWord) : (stCmd w).Inv := by
  have hph : ∀ k : Fin 12, (stCmd w).ph[k.val] = Key.empty := fun k => by simp [stCmd, st, State.reset]
  exact
    { wbufWF := fun j _ => by simp [stCmd, st, State.reset, Key.empty]
      phWF := fun k j _ => by rw [hph]; simp [Key.empty]
      phUnused := fun k _ => hph k
      quiet := fun _ => ⟨rfl, rfl, rfl, rfl⟩
      noWord := fun _ => rfl
      noPhrase := fun _ => rfl
      noOutput := fun _ => rfl
      halves := by simp [stCmd, st, State.reset]
      errIffFail := by simp [stCmd, st, State.reset]
      errposUnknown := by simp [stCmd, st, State.reset]
      twelve := by simp [stCmd, st, State.reset]
      countErr := by simp [stCmd, st, State.reset] }
theorem witness_OneResponsePerCommand :
    step (stCmd 0x0000) = .next { st with rsps := [0x0000] } ∧ (stCmd 0x0000).resetAsserted = false := ⟨rfl, rfl⟩
theorem witness_DictionaryNeverChanges : step (stIn .sSplit) = .next (stIn .sCheck) := rfl
/-- Two dictionaries that differ in a fifth byte, and a step over the first. -/
theorem witness_OnlyDictionaryKeysMatter :
    (∀ i : Fin 2048, key (dictWith 0 (by omega) (zzzz ++ [0x78]))[i.val] = key (dictWith 0 (by omega) zzzz)[i.val]) ∧
      zzzz ++ [0x78] ≠ zzzz ∧
      step { stIn .sSplit with dict := dictWith 0 (by omega) zzzz } =
        .next { stIn .sCheck with dict := dictWith 0 (by omega) zzzz } := by
  refine ⟨fun i => ?_, by decide, rfl⟩
  simp only [dictWith, Vector.getElem_set, Vector.getElem_replicate]
  split
  · decide
  · rfl
theorem witness_CmderrIsSticky :
    step (stCmd 0x7000) = .next { st with cmderr := true, rsps := [0x8002] } ∧ (stCmd 0x7000).resetAsserted = false ∧
      ({ stCmd 0x7000 with rst := [true] } : State).resetAsserted = true := ⟨rfl, rfl, rfl⟩
theorem witness_RefusalsChangeOnlyCmderr :
    step (stCmd 0x8000) = .next { st with cmderr := true, rsps := [] ++ [0x8001] } ∧
      (stCmd 0x8000).resetAsserted = false ∧ (0x8001 : RspWord).getLsbD 15 = true := ⟨rfl, rfl, by decide⟩
theorem witness_StatusTellsTheOutcome :
    (stDone.Inv ∧ stDone.cmderr = false ∧ stDone.phase = .done) ∧
      ((stFail .wordCount 0 13).Inv ∧ (stFail .wordCount 0 13).phase = .fail ∧ (stFail .wordCount 0 13).err = some .wordCount) ∧
      ((stFail .unknownWord 11 12).Inv ∧ (stFail .unknownWord 11 12).err = some .unknownWord) ∧
      ((stFail .checksum 0 12).Inv ∧ (stFail .checksum 0 12).err = some .checksum) :=
  ⟨⟨stDone_inv, rfl, rfl⟩, ⟨stFail_inv _ _ _ (by simp) (by decide), rfl, rfl⟩,
    ⟨stFail_inv _ _ _ (by simp) (by decide), rfl⟩, ⟨stFail_inv _ _ _ (by simp) (by decide), rfl⟩⟩
theorem witness_ReadsRepeat :
    allowedIn (.rdout 31) stDone.phase = true ∧
      exec (.rdout 31) stDone = .next { stDone with rsps := [0x0000] } := ⟨rfl, rfl⟩
theorem witness_HiddenRegistersAreNotAnswered :
    Instr.rdst.isCommand = true ∧ (∀ l, Instr.rdst ≠ .resolve l) ∧
      stAt 3 = { stIn .sResolvew with
        wcnt := 12, wbuf := (stAt 3).wbuf, ph := (stAt 3).ph, idx := (stAt 3).idx, bits := (stAt 3).bits,
        eb := (stAt 3).eb, widx := (stAt 3).widx } := ⟨rfl, (fun _ h => nomatch h), rfl⟩

end Sys2Proof.Tests
end

/-! PROOF. What crosses the command port in one step, and that each command is answered once (R19, R160). -/

namespace Sys2Proof.Machine

/-! ### What an instruction does at the port -/

/-- A host command takes no further word. It answers once in a resting phase, or it is the DECODE that now runs. -/
theorem exec_command_port {i : Instr} {s t : State} (hi : i.isCommand = true) (hs : s.phase.resting = true)
    (h : exec i s = .next t) :
    t.cmds = s.cmds ∧
      ((t.phase.resting = true ∧ ∃ v, t.rsps = s.rsps ++ [v]) ∨ (t.phase.resting = false ∧ t.rsps = s.rsps)) := by
  cases i with
  | nop => rw [exec_nop_inv h]; exact ⟨rfl, .inl ⟨hs, _, rfl⟩⟩
  | clr => rw [exec_clr_inv h]; exact ⟨rfl, .inl ⟨rfl, _, rfl⟩⟩
  | putc c => obtain ⟨-, rfl⟩ | ⟨-, rfl⟩ := exec_putc_inv h <;> exact ⟨rfl, .inl ⟨hs, _, rfl⟩⟩
  | endw => obtain ⟨-, rfl⟩ | ⟨-, rfl⟩ := exec_endw_inv h <;> exact ⟨rfl, .inl ⟨hs, _, rfl⟩⟩
  | resolve l =>
    obtain ⟨-, -, rfl⟩ | ⟨-, -, rfl⟩ | ⟨-, rfl⟩ := exec_resolve_inv h <;> exact ⟨rfl, .inl ⟨hs, _, rfl⟩⟩
  | decode =>
    obtain ⟨-, rfl⟩ | ⟨-, rfl⟩ := exec_decode_inv h
    · exact ⟨rfl, .inr ⟨rfl, rfl⟩⟩
    · exact ⟨rfl, .inl ⟨hs, _, rfl⟩⟩
  | rdst => rw [exec_rdst_inv h]; exact ⟨rfl, .inl ⟨hs, _, rfl⟩⟩
  | rdout k => obtain ⟨-, rfl⟩ | ⟨-, rfl⟩ := exec_rdout_inv h <;> exact ⟨rfl, .inl ⟨hs, _, rfl⟩⟩
  | _ => cases hi

/-- A micro-operation by itself touches neither list of the port. -/
theorem exec_micro_port {i : Instr} {s t : State} (hi : i.isCommand = false) (h : exec i s = .next t) :
    t.cmds = s.cmds ∧ t.rsps = s.rsps := by
  cases i with
  | sCount => obtain ⟨-, rfl⟩ | ⟨-, rfl⟩ := exec_sCount_inv h <;> exact ⟨rfl, rfl⟩
  | sResolvew =>
    obtain ⟨_, -, -, rfl⟩ | ⟨_, -, -, rfl⟩ | ⟨-, rfl⟩ := exec_sResolvew_inv h <;> exact ⟨rfl, rfl⟩
  | sCheck => obtain ⟨-, rfl⟩ | ⟨-, rfl⟩ := exec_sCheck_inv h <;> exact ⟨rfl, rfl⟩
  | sLangsel | sPack | sSplit | sUnpack | sDup | sFinish | sFail => injection h with h; subst h; exact ⟨rfl, rfl⟩
  | _ => cases hi

/-- `PHASE` selects micro-operations only, and only inside DECODE. -/
theorem State.microOp_some {s : State} {i : Instr} (h : s.microOp = some i) :
    s.phase.resting = false ∧ i.isCommand = false := by
  obtain ⟨hp, rfl⟩ | ⟨hp, rfl⟩ | ⟨hp, rfl⟩ | ⟨hp, rfl⟩ | ⟨hp, rfl⟩ | ⟨hp, rfl⟩ | ⟨hp, rfl⟩ | ⟨hp, rfl⟩ :=
    State.microOp_cases h <;> rw [hp] <;> exact ⟨rfl, rfl⟩

/-! ### What a step does at the port -/

/-- Everything a step without hard reset can do at the port: hold, accept a word and answer it, accept DECODE, run
inside DECODE, end DECODE with its answer. -/
theorem step_port {s t : State} (h : step s = .next t) (hr : s.resetAsserted = false) :
    (s.phase.resting = true ∧ t.phase.resting = true ∧ t.cmds = s.cmds ∧ t.rsps = s.rsps) ∨
      (s.phase.resting = true ∧ t.phase.resting = true ∧ (∃ w, s.cmds = w :: t.cmds) ∧ ∃ v, t.rsps = s.rsps ++ [v]) ∨
      (s.phase.resting = true ∧ t.phase.resting = false ∧ (∃ w, s.cmds = w :: t.cmds) ∧ t.rsps = s.rsps) ∨
      (s.phase.resting = false ∧ t.phase.resting = false ∧ t.cmds = s.cmds ∧ t.rsps = s.rsps) ∨
      (s.phase.resting = false ∧ t.phase.resting = true ∧ t.cmds = s.cmds ∧ t.rsps = s.rsps ++ [0]) := by
  obtain ⟨hr', -⟩ | ⟨-, i, u, hm, hu, rfl⟩ | ⟨-, hq, -, rfl⟩ | ⟨-, hq, w, ws, i, hc, hd, hu⟩ |
    ⟨-, hq, w, ws, r, hc, -, rfl⟩ := step_inv h
  · simp [hr] at hr'
  · obtain ⟨hs, hi⟩ := State.microOp_some hm
    obtain ⟨hcmds, hrsps⟩ := exec_micro_port hi hu
    cases hp : u.phase.resting with
    | false =>
      rw [State.endDecode_busy hp]
      exact .inr (.inr (.inr (.inl ⟨hs, hp, hcmds, hrsps⟩)))
    | true =>
      rw [State.endDecode_resting hp]
      exact .inr (.inr (.inr (.inr ⟨hs, hp, hcmds, by simp [hrsps]⟩)))
  · exact .inl ⟨hq, hq, rfl, rfl⟩
  · obtain ⟨hi, -⟩ := decodeCommand_ok hd
    obtain ⟨hcmds, ⟨hp, hv⟩ | ⟨hp, hrsps⟩⟩ := exec_command_port (s := { s.takeSample with cmds := ws }) hi hq hu
    · exact .inr (.inl ⟨hq, hp, ⟨w, by rw [hc, hcmds]⟩, hv⟩)
    · exact .inr (.inr (.inl ⟨hq, hp, ⟨w, by rw [hc, hcmds]⟩, hrsps⟩))
  · exact .inr (.inl ⟨hq, hq, ⟨w, hc⟩, _, rfl⟩)

/-- A step without hard reset adds no response or one. -/
theorem step_rsps {s t : State} (h : step s = .next t) (hr : s.resetAsserted = false) :
    t.rsps = s.rsps ∨ ∃ v, t.rsps = s.rsps ++ [v] := by
  obtain ⟨-, -, -, hv⟩ | ⟨-, -, -, hv⟩ | ⟨-, -, -, hv⟩ | ⟨-, -, -, hv⟩ | ⟨-, -, -, hv⟩ := step_port h hr
  · exact .inl hv
  · exact .inr hv
  · exact .inl hv
  · exact .inl hv
  · exact .inr ⟨_, hv⟩

/-- Each word taken from the port becomes a response or the DECODE under way, and the end of that DECODE a response. -/
theorem step_commandCount {s t : State} (h : step s = .next t) (hr : s.resetAsserted = false) :
    t.commandCount = s.commandCount := by
  unfold State.commandCount
  obtain ⟨hs, ht, hc, hv⟩ | ⟨hs, ht, ⟨w, hc⟩, v, hv⟩ | ⟨hs, ht, ⟨w, hc⟩, hv⟩ | ⟨hs, ht, hc, hv⟩ | ⟨hs, ht, hc, hv⟩ :=
    step_port h hr <;> simp [hs, ht, hc, hv] <;> omega

/-- Settles O52, from what a step can do at the port. -/
theorem oneResponsePerCommand : Obligations.OneResponsePerCommand := by
  intro s t h hr
  refine ⟨step_commandCount h hr, ?_⟩
  obtain hv | ⟨v, hv⟩ := step_rsps h hr <;> simp [hv]

end Sys2Proof.Machine

/-! PROOF. Every step keeps `State.Inv`: one rule per state operation, then the instructions, then the step
(R28, R29, R38, R39, R46). -/

namespace Sys2Proof.Machine

/-! ### Keys and phrase slots -/

theorem Key.empty_WF : Key.empty.WF := fun j _ => by simp [Key.empty]

/-- Appending a byte writes the first unused position, so the later ones stay zero. -/
theorem Key.put_WF {k : Key} (h : k.WF) (c : Byte) : (k.put c).WF := by
  by_cases hk : k.len.val < 4
  · rw [Key.put_short hk]
    intro j hj
    simp only at hj
    have hne : k.len.val ≠ j.val := by omega
    simpa [hne] using h j (by omega)
  · rwa [Key.put_full hk]

theorem emptySlots_get (k : Fin 12) : (Vector.replicate 12 Key.empty)[k.val] = Key.empty := by simp

theorem emptySlots_WF (k : Fin 12) : (Vector.replicate 12 Key.empty)[k.val].WF :=
  (emptySlots_get k).symm ▸ Key.empty_WF

theorem commitSlot_WF {ph : Vector Key 12} {w : Key} (hph : ∀ k : Fin 12, ph[k.val].WF) (hw : w.WF) (n : Fin 14)
    (k : Fin 12) : (commitSlot ph n w)[k.val].WF := by
  by_cases hn : n.val < 12
  · rw [commitSlot_stores hn, Vector.getElem_set]
    split
    · exact hw
    · exact hph k
  · rw [commitSlot_full hn]
    exact hph k

/-- The slots past the new word are the ones that were past the next free slot. -/
theorem commitSlot_unused {ph : Vector Key 12} {n : Fin 14}
    (hph : ∀ k : Fin 12, n.val ≤ k.val → ph[k.val] = Key.empty) (w : Key) (k : Fin 12)
    (hk : (satSucc n).val ≤ k.val) : (commitSlot ph n w)[k.val] = Key.empty := by
  rw [satSucc_val] at hk
  have hn : n.val < 12 := by omega
  rw [commitSlot_stores hn, Vector.getElem_set_ne _ _ (by omega)]
  exact hph k (by omega)

/-! ### Operations at the port -/

/-- The invariant reads neither `CMDERR`, nor the port, nor the reset input. -/
theorem State.Inv.withPort {s : State} (h : s.Inv) (ce : Bool) (cs : List CmdWord) (rs : List RspWord)
    (rt : List Bool) : ({ s with cmderr := ce, cmds := cs, rsps := rs, rst := rt } : State).Inv :=
  { h with quiet := fun hq => { h.quiet hq with } }

theorem State.Inv.respond {s : State} (h : s.Inv) (v : RspWord) : (s.respond v).Inv := h.withPort ..

theorem State.Inv.refuse {s : State} (h : s.Inv) (c : RefuseCode) : (s.refuse c).Inv := h.withPort ..

theorem State.Inv.takeSample {s : State} (h : s.Inv) : s.takeSample.Inv := h.withPort ..

theorem State.Inv.withCmds {s : State} (h : s.Inv) (ws : List CmdWord) : ({ s with cmds := ws } : State).Inv :=
  h.withPort ..

theorem State.Inv.endDecode {s : State} (h : s.Inv) : s.endDecode.Inv := by
  unfold State.endDecode
  split
  · exact h.respond 0
  · exact h

/-! ### Operations on the registers -/

/-- CLR's writes establish the invariant from any state. -/
theorem State.clear_inv (s : State) : s.clear.Inv where
  wbufWF := Key.empty_WF
  phWF := emptySlots_WF
  phUnused k _ := emptySlots_get k
  quiet _ := ⟨rfl, rfl, rfl, rfl⟩
  noWord _ := rfl
  noPhrase _ := rfl
  noOutput _ := rfl
  halves hp := nomatch hp
  errIffFail := by simp
  errposUnknown hp := absurd rfl hp
  twelve hp := absurd rfl hp
  countErr hp := nomatch hp

theorem State.hardReset_inv (s : State) : s.hardReset.Inv := s.clear_inv.withPort ..

theorem State.Inv.clearWord {s : State} (h : s.Inv) : s.clearWord.Inv :=
  { h with wbufWF := Key.empty_WF, quiet := fun hq => { h.quiet hq with }, noWord := fun _ => rfl }

theorem State.Inv.putByte {s : State} (h : s.Inv) (hp : s.phase = .idle) (c : Byte) : (s.putByte c).Inv :=
  { h with
    wbufWF := Key.put_WF h.wbufWF c
    quiet := fun hq => { h.quiet hq with }
    noWord := fun hn => absurd hp hn }

theorem State.Inv.commitWord {s : State} (h : s.Inv) (hp : s.phase = .idle) : s.commitWord.Inv :=
  { h with
    wbufWF := Key.empty_WF
    phWF := commitSlot_WF h.phWF h.wbufWF s.wcnt
    phUnused := commitSlot_unused h.phUnused s.wbuf
    quiet := fun hq => { h.quiet hq with }
    noWord := fun _ => rfl
    noPhrase := by simp [hp]
    twelve := fun hn => absurd hp hn
    countErr := by simp [hp] }

/-- Accepting DECODE: the unclosed word is dropped, and S_COUNT asks nothing of the count. -/
theorem State.Inv.startDecode {s : State} (h : s.Inv) (hp : s.phase = .idle) :
    ({ s.clearWord with phase := .sCount } : State).Inv where
  wbufWF := Key.empty_WF
  phWF := h.phWF
  phUnused := h.phUnused
  quiet hq := nomatch hq
  noWord _ := rfl
  noPhrase := by simp
  noOutput _ := h.noOutput (by simp [hp])
  halves hd := nomatch hd
  errIffFail := by simpa [hp] using h.errIffFail
  errposUnknown := h.errposUnknown
  twelve _ hn := absurd rfl hn
  countErr hf := nomatch hf

/-- Inside DECODE, with twelve words, the transients and the phase are free. -/
theorem State.Inv.busy {s : State} (h : s.Inv) (hs : s.phase.resting = false) (hw : s.wcnt.val = 12) {p : Phase}
    (hp : p.resting = false) (idx : Vector Index 12) (bits : BitVec 132) (eb : Vector Byte 16) (widx : Fin 12) :
    ({ s with idx := idx, bits := bits, eb := eb, widx := widx, phase := p } : State).Inv :=
  have resting_ne : ∀ {q r : Phase}, q.resting = false → r.resting = true → q ≠ r := by
    rintro q r hq hr rfl
    simp [hq] at hr
  { h with
    quiet := fun hq => absurd rfl (resting_ne hp hq)
    noWord := fun _ => h.noWord (resting_ne hs rfl)
    noPhrase := fun hq => (hq.elim (resting_ne hp rfl) (resting_ne hp rfl)).elim
    noOutput := fun _ => h.noOutput (resting_ne hs rfl)
    halves := fun hq => absurd hq (resting_ne hp rfl)
    errIffFail := h.errIffFail.trans (iff_of_false (resting_ne hs rfl) (resting_ne hp rfl))
    twelve := fun _ _ _ => hw
    countErr := fun hq => absurd hq (resting_ne hp rfl) }

/-- Entering FAIL with a position only for an unknown word, and with WordCountError exactly on a wrong count. -/
theorem State.Inv.raise {s : State} (h : s.Inv) (hs : s.phase ≠ .idle) {kind : ErrKind} {pos : Fin 12}
    (hpos : pos ≠ 0 → kind = .unknownWord) (hkind : kind = .wordCount ↔ s.wcnt.val ≠ 12) :
    (s.raise kind pos).Inv where
  wbufWF := h.wbufWF
  phWF := emptySlots_WF
  phUnused k _ := emptySlots_get k
  quiet _ := ⟨rfl, rfl, rfl, rfl⟩
  noWord _ := h.noWord hs
  noPhrase _ := rfl
  noOutput _ := rfl
  halves hp := nomatch hp
  errIffFail := by simp
  errposUnknown hp := congrArg some (hpos hp)
  twelve _ _ hp := absurd rfl hp
  countErr _ := by simpa using hkind

/-- S_DUP enters DONE with the sixteen bytes twice in the output. -/
theorem State.Inv.finishDuplicate {s : State} (h : s.Inv) (hs : s.phase = .sDup) :
    ({ s with out := duplicate s.eb } : State).finish.Inv where
  wbufWF := h.wbufWF
  phWF := emptySlots_WF
  phUnused k _ := emptySlots_get k
  quiet _ := ⟨rfl, rfl, rfl, rfl⟩
  noWord _ := h.noWord (by simp [hs])
  noPhrase _ := rfl
  noOutput hp := absurd rfl hp
  halves _ j := (duplicate_high s.eb j.val j.isLt).trans (duplicate_low s.eb j.val j.isLt).symm
  errIffFail := by simp
  errposUnknown hp := absurd rfl hp
  twelve _ _ _ := h.twelve (by simp [hs]) (by simp [hs]) (by simp [hs])
  countErr hp := nomatch hp

/-! ### Instructions and steps -/

/-- A host command keeps the invariant in every phase. -/
theorem exec_command_keeps_inv {i : Instr} {s t : State} (hi : i.isCommand = true) (h : s.Inv)
    (ht : exec i s = .next t) : t.Inv := by
  cases i with
  | nop => rw [exec_nop_inv ht]; exact h.respond 0
  | clr => rw [exec_clr_inv ht]; exact s.clear_inv.respond 0
  | putc c =>
    obtain ⟨hp, rfl⟩ | ⟨-, rfl⟩ := exec_putc_inv ht
    · exact (h.putByte hp c).respond 0
    · exact h.refuse .sequence
  | endw =>
    obtain ⟨hp, rfl⟩ | ⟨-, rfl⟩ := exec_endw_inv ht
    · exact (h.commitWord hp).respond 0
    · exact h.refuse .sequence
  | resolve l =>
    obtain ⟨-, -, rfl⟩ | ⟨-, -, rfl⟩ | ⟨-, rfl⟩ := exec_resolve_inv ht
    · exact h.clearWord.respond _
    · exact h.refuse .sequence
    · exact h.refuse .illegal
  | decode =>
    obtain ⟨hp, rfl⟩ | ⟨-, rfl⟩ := exec_decode_inv ht
    · exact h.startDecode hp
    · exact h.refuse .sequence
  | rdst => rw [exec_rdst_inv ht]; exact h.respond _
  | rdout k =>
    obtain ⟨-, rfl⟩ | ⟨-, rfl⟩ := exec_rdout_inv ht
    · exact h.respond _
    · exact h.refuse .sequence
  | _ => cases hi

/-- The micro-operation that `PHASE` selects keeps the invariant. -/
theorem exec_micro_keeps_inv {i : Instr} {s t : State} (hi : s.microOp = some i) (h : s.Inv)
    (ht : exec i s = .next t) : t.Inv := by
  have hs : s.phase.resting = false := (State.microOp_some hi).1
  have hidle : s.phase ≠ .idle := by rintro hp; simp [hp, Phase.resting] at hs
  have hfail : s.phase ≠ .fail := by rintro hp; simp [hp, Phase.resting] at hs
  have hp := State.microOp_cases hi
  have hw : i ≠ .sCount → s.wcnt.val = 12 := fun hne => h.twelve hidle (by rintro hc; simp_all) hfail
  cases i with
  | sCount =>
    obtain ⟨hc, rfl⟩ | ⟨hc, rfl⟩ := exec_sCount_inv ht
    · exact h.busy hs hc rfl ..
    · exact h.raise hidle (fun hz => absurd rfl hz) (by simpa using hc)
  | sLangsel | sPack | sSplit | sUnpack =>
    injection ht with ht; subst ht
    exact h.busy hs (hw nofun) rfl ..
  | sResolvew =>
    obtain ⟨_, -, -, rfl⟩ | ⟨_, -, -, rfl⟩ | ⟨-, rfl⟩ := exec_sResolvew_inv ht
    · exact h.busy hs (hw nofun) rfl ..
    · exact h.busy hs (hw nofun) hs ..
    · exact h.raise hidle (fun _ => rfl) (by simpa using hw nofun)
  | sCheck =>
    obtain ⟨-, rfl⟩ | ⟨-, rfl⟩ := exec_sCheck_inv ht
    · exact h.busy hs (hw nofun) rfl ..
    · exact h.raise hidle (fun hz => absurd rfl hz) (by simpa using hw nofun)
  | sDup =>
    injection ht with ht; subst ht
    exact h.finishDuplicate (by simpa using hp)
  | _ => simp at hp

/-- Settles O10: the registers and RDST's answer are computed. -/
theorem resetStateIsZero : Obligations.ResetStateIsZero :=
  ⟨rfl, rfl, rfl, rfl, rfl, rfl, rfl, rfl, rfl, rfl, rfl, rfl, rfl, rfl, rfl, rfl⟩

/-- Settles O45: the reset state is one CLR's writes leave. -/
theorem invariantHoldsAtReset : Obligations.InvariantHoldsAtReset := State.reset.clear_inv

/-- Settles O46, case by case over what a step can do. -/
theorem everyStepKeepsTheInvariant : Obligations.EveryStepKeepsTheInvariant := by
  intro s t h ht
  obtain ⟨-, rfl⟩ | ⟨-, i, u, hm, hu, rfl⟩ | ⟨-, -, -, rfl⟩ | ⟨-, -, w, ws, i, -, hd, hu⟩ |
    ⟨-, -, w, ws, r, -, -, rfl⟩ := step_inv ht
  · exact s.takeSample.hardReset_inv
  · exact (exec_micro_keeps_inv hm h.takeSample hu).endDecode
  · exact h.takeSample
  · exact exec_command_keeps_inv (decodeCommand_ok hd).1 (h.takeSample.withCmds ws) hu
  · exact (h.takeSample.withCmds ws).refuse .illegal

end Sys2Proof.Machine

/-! PROOF. The dictionary: no step writes it, and only its keys matter (R26, R27). Statements about two states that do
the same, with the hidden registers of R45. -/

namespace Sys2Proof.Machine

/-! ### The dictionary is kept -/

theorem State.endDecode_dict (s : State) : s.endDecode.dict = s.dict := by
  unfold State.endDecode
  split <;> rfl

theorem exec_dict {i : Instr} {s t : State} (h : exec i s = .next t) : t.dict = s.dict := by
  cases i with
  | putc c => obtain ⟨-, rfl⟩ | ⟨-, rfl⟩ := exec_putc_inv h <;> rfl
  | endw => obtain ⟨-, rfl⟩ | ⟨-, rfl⟩ := exec_endw_inv h <;> rfl
  | resolve l => obtain ⟨-, -, rfl⟩ | ⟨-, -, rfl⟩ | ⟨-, rfl⟩ := exec_resolve_inv h <;> rfl
  | decode => obtain ⟨-, rfl⟩ | ⟨-, rfl⟩ := exec_decode_inv h <;> rfl
  | rdout k => obtain ⟨-, rfl⟩ | ⟨-, rfl⟩ := exec_rdout_inv h <;> rfl
  | sCount => obtain ⟨-, rfl⟩ | ⟨-, rfl⟩ := exec_sCount_inv h <;> rfl
  | sResolvew => obtain ⟨_, -, -, rfl⟩ | ⟨_, -, -, rfl⟩ | ⟨-, rfl⟩ := exec_sResolvew_inv h <;> rfl
  | sCheck => obtain ⟨-, rfl⟩ | ⟨-, rfl⟩ := exec_sCheck_inv h <;> rfl
  | nop | clr | rdst | sLangsel | sPack | sSplit | sUnpack | sDup | sFinish | sFail => injection h with h; subst h; rfl

/-- Settles O53, case by case over what a step can do. -/
theorem dictionaryNeverChanges : Obligations.DictionaryNeverChanges := by
  intro s t h
  obtain ⟨-, rfl⟩ | ⟨-, i, u, -, hu, rfl⟩ | ⟨-, -, -, rfl⟩ | ⟨-, -, w, ws, i, -, -, hu⟩ | ⟨-, -, w, ws, r, -, -, rfl⟩ :=
    step_inv h
  · rfl
  · rw [u.endDecode_dict, exec_dict hu, State.takeSample_dict]
  · rfl
  · simpa using exec_dict hu
  · rfl

/-! ### The outcome of an accepted word, and of a micro-operation -/

theorem State.accept_nil {s : State} (hc : s.cmds = []) : s.accept = .next s := by
  simp [State.accept, hc]

theorem State.accept_ok {s : State} {w : CmdWord} {ws : List CmdWord} {i : Instr} (hc : s.cmds = w :: ws)
    (hd : decodeCommand w = .ok i) : s.accept = exec i { s with cmds := ws } := by
  simp [State.accept, hc, hd]

theorem State.accept_error {s : State} {w : CmdWord} {ws : List CmdWord} {r : Reject} (hc : s.cmds = w :: ws)
    (hd : decodeCommand w = .error r) : s.accept = .next (({ s with cmds := ws } : State).refuse .illegal) := by
  simp [State.accept, hc, hd]

theorem State.advance_micro {s : State} {i : Instr} (hm : s.microOp = some i) : s.advance = runMicro i s := by
  simp [State.advance, hm]

/-! ### Two outcomes side by side -/

/-- Both outcomes are next states, and `R` holds of the two. -/
def Paired (R : State → State → Prop) (r r' : Result) : Prop :=
  ∃ t t', r = .next t ∧ r' = .next t' ∧ R t t'

theorem Paired.next {R : State → State → Prop} {t t' : State} (h : R t t') : Paired R (.next t) (.next t') :=
  ⟨t, t', rfl, rfl, h⟩

/-- Two states that take the same branch. -/
theorem ite_related {R : State → State → Prop} {c : Prop} [Decidable c] {t u t' u' : State} (hthen : R t t')
    (helse : R u u') : R (if c then t else u) (if c then t' else u') := by
  split
  · exact hthen
  · exact helse

theorem Paired.gate {R : State → State → Prop} {s s' : State} {allowed : Bool} {body : State → State}
    (hbody : R (body s) (body s')) (href : R (s.refuse .sequence) (s'.refuse .sequence)) :
    Paired R (s.gate allowed body) (s'.gate allowed body) := .next (ite_related hbody href)

/-! ### Only the keys of the dictionary matter -/

/-- The same state over another dictionary. -/
def State.withDict (d : Vector Word 2048) (s : State) : State := { s with dict := d }

/-- `t'` is `t` over the dictionary `d`. -/
def SameOver (d : Vector Word 2048) (t t' : State) : Prop := t' = t.withDict d

/-- The scan is one of the vector of keys. -/
theorem resolveKey_congr {d d' : Vector Word 2048} (h : ∀ i : Fin 2048, key d[i.val] = key d'[i.val]) (k : Key) :
    resolveKey d k = resolveKey d' k := by
  have hmap : d.toList.map key = d'.toList.map key := by
    rw [← Vector.toList_map, ← Vector.toList_map]
    exact congrArg Vector.toList (Vector.ext fun i hi => by simpa using h ⟨i, hi⟩)
  have hscan : ∀ e : Vector Word 2048, (e.toList.findIdx? fun w => decide (key w = k)) =
      (e.toList.map key).findIdx? fun x => decide (x = k) := fun e => by
    rw [List.findIdx?_map]; rfl
  simp only [resolveKey, hscan, hmap]

theorem State.withDict_endDecode (d : Vector Word 2048) (s : State) :
    (s.withDict d).endDecode = s.endDecode.withDict d :=
  ite_related (R := SameOver d) rfl rfl

section
variable {s : State} {d : Vector Word 2048} (hkeys : ∀ i : Fin 2048, key d[i.val] = key s.dict[i.val])
include hkeys

theorem State.withDict_resolveWord : (s.withDict d).resolveWord = s.resolveWord := resolveKey_congr hkeys _

theorem State.withDict_resolveSlot : (s.withDict d).resolveSlot = s.resolveSlot := resolveKey_congr hkeys _

theorem exec_withDict (i : Instr) : Paired (SameOver d) (exec i s) (exec i (s.withDict d)) := by
  cases i with
  | nop | clr | rdst | sLangsel | sPack | sSplit | sUnpack | sDup | sFinish | sFail => exact Paired.next rfl
  | putc | endw | decode | rdout =>
    simp only [exec, execPutc, execEndw, execDecode, execRdout]
    refine Paired.gate ?_ ?_ <;> rfl
  | resolve l =>
    simp only [exec, execResolve]
    split
    · refine Paired.gate ?_ rfl
      rw [State.withDict_resolveWord hkeys]
      rfl
    · exact Paired.next rfl
  | sCount | sCheck => refine Paired.next (ite_related ?_ ?_) <;> rfl
  | sResolvew =>
    refine Paired.next ?_
    rw [State.withDict_resolveSlot hkeys]
    cases s.resolveSlot with
    | none => rfl
    | some i => refine ite_related ?_ ?_ <;> rfl

theorem accept_withDict : Paired (SameOver d) s.accept (s.withDict d).accept := by
  cases hc : s.cmds with
  | nil =>
    rw [State.accept_nil hc, State.accept_nil (s := s.withDict d) hc]
    exact Paired.next rfl
  | cons w ws =>
    cases hd : decodeCommand w with
    | ok i =>
      rw [State.accept_ok hc hd, State.accept_ok (s := s.withDict d) hc hd]
      exact exec_withDict (s := { s with cmds := ws }) hkeys i
    | error r =>
      rw [State.accept_error hc hd, State.accept_error (s := s.withDict d) hc hd]
      exact Paired.next rfl

/-- Hard reset, the sequencer and the port read the dictionary through the instruction alone. -/
theorem step_withDict : Paired (SameOver d) (step s) (step (s.withDict d)) := by
  cases hr : s.resetAsserted with
  | true =>
    rw [step_reset hr, step_reset (s := s.withDict d) hr]
    exact Paired.next rfl
  | false =>
    rw [step_run hr, step_run (s := s.withDict d) hr]
    cases hm : s.takeSample.microOp with
    | some i =>
      rw [State.advance_micro hm, State.advance_micro (s := (s.withDict d).takeSample) hm]
      obtain ⟨t, _, ht, ht', rfl⟩ := exec_withDict (s := s.takeSample) hkeys i
      exact ⟨_, _, runMicro_next ht, runMicro_next ht', t.withDict_endDecode d⟩
    | none =>
      have hq := State.microOp_none hm
      rw [State.advance_resting hq, State.advance_resting (s := (s.withDict d).takeSample) hq]
      exact accept_withDict (s := s.takeSample) hkeys

end

/-- Settles O54: a step over another dictionary gives the same state over it. -/
theorem onlyDictionaryKeysMatter : Obligations.OnlyDictionaryKeysMatter := by
  intro s t d hkeys h
  obtain ⟨u, u', hu, hu', rfl⟩ := step_withDict hkeys
  obtain rfl : u = t := by rw [hu] at h; injection h
  exact hu'

/-! ### The hidden registers -/

/-- The two states answer the same and show the same status. -/
def AnswersAlike (t t' : State) : Prop := t'.rsps = t.rsps ∧ t'.status = t.status

/-- Settles O59: no command but RESOLVE reads a hidden register into a response or into the status. -/
theorem hiddenRegistersAreNotAnswered : Obligations.HiddenRegistersAreNotAnswered := by
  intro i s s' hi hl hs
  show Paired AnswersAlike (exec i s) (exec i s')
  rw [hs]
  cases i with
  | nop | clr | rdst => exact Paired.next ⟨rfl, rfl⟩
  | putc | endw | decode | rdout =>
    simp only [exec, execPutc, execEndw, execDecode, execRdout]
    refine Paired.gate ?_ ?_ <;> exact ⟨rfl, rfl⟩
  | resolve l => exact absurd rfl (hl l)
  | _ => cases hi

end Sys2Proof.Machine

/-! PROOF. `CMDERR` and the answers: a refusal sets it with a word of its own, and nothing else does (R42, R81, R186). -/

namespace Sys2Proof.Machine

/-! ### Bit 15 of an answer (R81) -/

/-- The status word's fields, whatever they hold, lie below bit 15. -/
theorem statusFields_bit15 (wcnt errpos phase : BitVec 4) (cmderr : BitVec 1) (err : BitVec 2) :
    (0#1 ++ wcnt ++ cmderr ++ errpos ++ err ++ phase).getLsbD 15 = false := by
  simp only [BitVec.getLsbD_append]
  rfl

theorem State.status_bit15 (s : State) : s.status.getLsbD 15 = false := statusFields_bit15 ..

theorem foundFields_bit15 (i : Index) : (0#4 ++ 1#1 ++ i).getLsbD 15 = false := by
  rw [BitVec.getLsbD_append]
  rfl

theorem foundWord_bit15 (i : Option Index) : (foundWord i).getLsbD 15 = false := by
  cases i with
  | none => rfl
  | some i => exact foundFields_bit15 i

theorem byteWord_bit15 (b : Byte) : (b.setWidth 16).getLsbD 15 = false := by
  simp

theorem RefuseCode.response_cases (c : RefuseCode) : c.response = 0x8001 ∨ c.response = 0x8002 := by
  cases c
  · exact .inl rfl
  · exact .inr rfl

/-! ### Refused, or not -/

/-- From `s` to `t` no command is refused: `CMDERR` is kept, and an answer, if there is one, has bit 15 clear. -/
def Unrefused (s t : State) : Prop :=
  t.cmderr = s.cmderr ∧ (t.rsps = s.rsps ∨ ∃ v : RspWord, v.getLsbD 15 = false ∧ t.rsps = s.rsps ++ [v])

theorem Unrefused.silent {s t : State} (hc : t.cmderr = s.cmderr) (hr : t.rsps = s.rsps) : Unrefused s t :=
  ⟨hc, .inl hr⟩

theorem Unrefused.answer {s t : State} {v : RspWord} (hc : t.cmderr = s.cmderr) (hr : t.rsps = s.rsps ++ [v])
    (hv : v.getLsbD 15 = false) : Unrefused s t :=
  ⟨hc, .inr ⟨v, hv, hr⟩⟩

/-- Without a refusal the last response is neither refusal word. -/
theorem Unrefused.rsps_ne {s t : State} (h : Unrefused s t) {v : RspWord} (hv : v.getLsbD 15 = true) :
    t.rsps ≠ s.rsps ++ [v] := by
  obtain ⟨-, hr | ⟨u, hu, hr⟩⟩ := h <;> rw [hr]
  · simp
  · rintro heq
    obtain rfl : u = v := by simpa using heq
    exact Bool.false_ne_true (hu.symm.trans hv)

/-- A host command is refused, with nothing else changed, or goes through. -/
theorem exec_command_answer {i : Instr} {s t : State} (hi : i.isCommand = true) (h : exec i s = .next t) :
    (∃ c, t = s.refuse c) ∨ Unrefused s t := by
  cases i with
  | nop => rw [exec_nop_inv h]; exact .inr (.answer rfl rfl rfl)
  | clr => rw [exec_clr_inv h]; exact .inr (.answer rfl rfl rfl)
  | putc c =>
    obtain ⟨-, rfl⟩ | ⟨-, rfl⟩ := exec_putc_inv h
    · exact .inr (.answer rfl rfl rfl)
    · exact .inl ⟨_, rfl⟩
  | endw =>
    obtain ⟨-, rfl⟩ | ⟨-, rfl⟩ := exec_endw_inv h
    · exact .inr (.answer rfl rfl rfl)
    · exact .inl ⟨_, rfl⟩
  | resolve l =>
    obtain ⟨-, -, rfl⟩ | ⟨-, -, rfl⟩ | ⟨-, rfl⟩ := exec_resolve_inv h
    · exact .inr (.answer rfl rfl (foundWord_bit15 _))
    · exact .inl ⟨_, rfl⟩
    · exact .inl ⟨_, rfl⟩
  | decode =>
    obtain ⟨-, rfl⟩ | ⟨-, rfl⟩ := exec_decode_inv h
    · exact .inr (.silent rfl rfl)
    · exact .inl ⟨_, rfl⟩
  | rdst => rw [exec_rdst_inv h]; exact .inr (.answer rfl rfl s.status_bit15)
  | rdout k =>
    obtain ⟨-, rfl⟩ | ⟨-, rfl⟩ := exec_rdout_inv h
    · exact .inr (.answer rfl rfl (byteWord_bit15 _))
    · exact .inl ⟨_, rfl⟩
  | _ => cases hi

theorem exec_micro_cmderr {i : Instr} {s t : State} (hi : i.isCommand = false) (h : exec i s = .next t) :
    t.cmderr = s.cmderr := by
  cases i with
  | sCount => obtain ⟨-, rfl⟩ | ⟨-, rfl⟩ := exec_sCount_inv h <;> rfl
  | sResolvew => obtain ⟨_, -, -, rfl⟩ | ⟨_, -, -, rfl⟩ | ⟨-, rfl⟩ := exec_sResolvew_inv h <;> rfl
  | sCheck => obtain ⟨-, rfl⟩ | ⟨-, rfl⟩ := exec_sCheck_inv h <;> rfl
  | sLangsel | sPack | sSplit | sUnpack | sDup | sFinish | sFail => injection h with h; subst h; rfl
  | _ => cases hi

theorem State.endDecode_unrefused (s : State) : Unrefused s s.endDecode := by
  unfold State.endDecode
  split
  · exact .answer rfl rfl rfl
  · exact .silent rfl rfl

/-- A step without hard reset refuses the word it takes, with nothing else changed, or refuses nothing. -/
theorem step_answer {s t : State} (h : step s = .next t) (hr : s.resetAsserted = false) :
    (∃ c, t = ({ s.takeSample with cmds := s.cmds.tail } : State).refuse c) ∨ Unrefused s t := by
  obtain ⟨hr', -⟩ | ⟨-, i, u, hm, hu, rfl⟩ | ⟨-, -, -, rfl⟩ | ⟨-, -, w, ws, i, hc, hd, hu⟩ |
    ⟨-, -, w, ws, r, hc, -, rfl⟩ := step_inv h
  · simp [hr] at hr'
  · obtain ⟨-, hi⟩ := State.microOp_some hm
    obtain ⟨-, hrsps⟩ := exec_micro_port hi hu
    have hcmderr := exec_micro_cmderr hi hu
    have hend := u.endDecode_unrefused
    rw [Unrefused, hcmderr, hrsps] at hend
    exact .inr hend
  · exact .inr (.silent rfl rfl)
  · rw [hc]
    exact exec_command_answer (s := { s.takeSample with cmds := ws }) (decodeCommand_ok hd).1 hu
  · rw [hc]
    exact .inl ⟨.illegal, rfl⟩

/-- Settles O55, from what a step can answer. -/
theorem cmderrIsSticky : Obligations.CmderrIsSticky := by
  refine ⟨rfl, fun s t h => ⟨fun hr => ?_, fun hr => ?_⟩⟩
  · rw [step_reset hr] at h
    injection h with h
    rw [← h, State.hardReset_cmderr]
  · obtain ⟨c, rfl⟩ | hu := step_answer h hr
    · refine iff_of_true rfl (.inr ?_)
      obtain hc | hc := c.response_cases
      · exact .inl (congrArg (s.rsps ++ [·]) hc)
      · exact .inr (congrArg (s.rsps ++ [·]) hc)
    · have h1 := hu.rsps_ne (v := 0x8001) rfl
      have h2 := hu.rsps_ne (v := 0x8002) rfl
      rw [hu.1]
      exact (or_iff_left (not_or.mpr ⟨h1, h2⟩)).symm

end Sys2Proof.Machine

/-! PROOF. A read command run again finds what it read and answers the same word (R72). -/

namespace Sys2Proof.Machine

theorem State.respond_respond (s : State) (v w : RspWord) :
    (s.respond v).respond w = { s with rsps := s.rsps ++ [v, w] } := by
  simp [State.respond]

/-- The status word is made of registers alone (R165). -/
@[simp] theorem State.respond_status (s : State) (v : RspWord) : (s.respond v).status = s.status := rfl

theorem exec_rdout_done (i : BitVec 5) {s : State} (hp : s.phase = .done) :
    exec (.rdout i) s = .next (s.respond (s.out[i.toFin].setWidth 16)) :=
  State.gate_allowed (decide_eq_true hp) fun s => s.respond (s.out[i.toFin].setWidth 16)

/-- The commands that only read: NOP, RDST and RDOUT. -/
def IsRead (i : Instr) : Prop := i = .nop ∨ i = .rdst ∨ ∃ k, i = .rdout k

/-- A read command that executes adds its answer and nothing else, and then gives the same answer again. -/
theorem exec_read_twice {i : Instr} {s t : State} (hi : IsRead i) (ha : allowedIn i s.phase = true)
    (h : exec i s = .next t) : ∃ v, t = s.respond v ∧ exec i t = .next (t.respond v) := by
  obtain rfl | rfl | ⟨k, rfl⟩ := hi
  · exact ⟨0, exec_nop_inv h, rfl⟩
  · obtain rfl := exec_rdst_inv h
    refine ⟨s.status, rfl, ?_⟩
    calc exec .rdst (s.respond s.status)
        = .next ((s.respond s.status).respond (s.respond s.status).status) := rfl
      _ = .next ((s.respond s.status).respond s.status) := by rw [State.respond_status]
  · have hp : s.phase = .done := of_decide_eq_true ha
    obtain ⟨-, rfl⟩ | ⟨hn, -⟩ := exec_rdout_inv h
    · exact ⟨_, rfl, exec_rdout_done k hp⟩
    · exact absurd hp hn

/-- Settles O58, from the two answers of a read command run twice. -/
theorem readsRepeat : Obligations.ReadsRepeat := by
  intro i s t hi ha h
  obtain ⟨v, rfl, hagain⟩ := exec_read_twice hi ha h
  exact ⟨v, rfl, by rw [hagain, State.respond_respond]⟩

end Sys2Proof.Machine

/-! PROOF. The encoding: every instruction's bits decode back to it, the rows of the opcode map, the illegal words and
their number, and the assembler's expansions (R80 to R90). -/

namespace Sys2Proof.Machine

/-! ### The fields of a command word (R80) -/

theorem opField_append (op : BitVec 4) (arg : BitVec 12) : opField (op ++ arg) = op :=
  BitVec.extractLsb'_append_eq_left

theorem argField_append (op : BitVec 4) (arg : BitVec 12) : argField (op ++ arg) = arg :=
  BitVec.extractLsb'_append_eq_right

theorem opField_eq_ofNat {w : CmdWord} {n : Nat} (h : (opField w).toNat = n) : opField w = BitVec.ofNat 4 n := by
  rw [← h, BitVec.ofNat_toNat, BitVec.setWidth_eq]

theorem eq_append_argField {w : CmdWord} {n : Nat} (h : (opField w).toNat = n) :
    w = BitVec.ofNat 4 n ++ argField w := by
  rw [← opField_eq_ofNat h]
  exact (BitVec.extractLsb'_append_extractLsb' (w := 4) (len := 12) (x := w)).symm

theorem fields_toNat_of_block {q r : Nat} (hq : q < 16) (hr : r < 4096) :
    (opField (BitVec.ofNat 16 (4096 * q + r))).toNat = q ∧ (argField (BitVec.ofNat 16 (4096 * q + r))).toNat = r := by
  simp only [opField, argField, BitVec.extractLsb'_toNat, BitVec.toNat_ofNat, Nat.shiftRight_eq_div_pow]
  omega

theorem high_eq_zero_iff_exists {n k : Nat} {x : BitVec (n + k)} :
    x.extractLsb' k n = 0 ↔ ∃ y : BitVec k, x = 0#n ++ y := by
  constructor
  · intro h
    refine ⟨x.extractLsb' 0 k, ?_⟩
    rw [← BitVec.ofNat_eq_ofNat, ← h, BitVec.extractLsb'_append_extractLsb']
  · rintro ⟨y, rfl⟩
    exact BitVec.extractLsb'_append_eq_left

theorem high_eq_zero_iff_toNat_lt {n k : Nat} {x : BitVec (n + k)} : x.extractLsb' k n = 0 ↔ x.toNat < 2 ^ k := by
  have hlt : x.toNat / 2 ^ k < 2 ^ n := Nat.div_lt_of_lt_mul (Nat.pow_add 2 k n ▸ Nat.add_comm n k ▸ x.isLt)
  rw [← BitVec.toNat_inj, BitVec.extractLsb'_toNat, Nat.shiftRight_eq_div_pow, Nat.mod_eq_of_lt hlt]
  simp [Nat.div_eq_zero_iff]

theorem arg_eq_zero_iff_parts {arg : BitVec 12} :
    arg = 0 ↔ arg.extractLsb' 4 8 = 0 ∧ arg.extractLsb' 0 4 = 0 := by
  constructor
  · rintro rfl
    exact ⟨rfl, rfl⟩
  · rintro ⟨hhi, hlo⟩
    rw [← BitVec.extractLsb'_append_extractLsb' (w := 8) (len := 4) (x := arg), hhi, hlo]
    rfl

/-! ### What each operand form decodes to (R82) -/

/-- An operand of `k` bits with zeros above it: the form PUTC and RDOUT share. -/
theorem operand_eq_ok {n k : Nat} {arg : BitVec (n + k)} {f : BitVec k → Instr} {r : Reject} {i : Instr} :
    (if arg.extractLsb' k n = 0 then .ok (f (arg.extractLsb' 0 k)) else .error r) = Except.ok i ↔
      ∃ y, arg = 0#n ++ y ∧ i = f y := by
  constructor
  · intro h
    split at h
    next hz =>
      obtain ⟨y, rfl⟩ := high_eq_zero_iff_exists.mp hz
      injection h with h
      exact ⟨y, rfl, by rw [← h, BitVec.extractLsb'_append_eq_right]⟩
    next => cases h
  · rintro ⟨y, rfl, rfl⟩
    rw [BitVec.extractLsb'_append_eq_left, BitVec.extractLsb'_append_eq_right]
    exact if_pos rfl

theorem decodePutc_eq_ok {arg : BitVec 12} {i : Instr} :
    decodePutc arg = .ok i ↔ ∃ c, arg = 0#4 ++ c ∧ i = .putc c :=
  operand_eq_ok (n := 4) (k := 8)

theorem decodeRdout_eq_ok {arg : BitVec 12} {i : Instr} :
    decodeRdout arg = .ok i ↔ ∃ k, arg = 0#7 ++ k ∧ i = .rdout k :=
  operand_eq_ok (n := 7) (k := 5)

theorem decodeNoOperand_eq_ok {i j : Instr} {arg : BitVec 12} :
    decodeNoOperand j arg = .ok i ↔ arg = 0 ∧ i = j := by
  unfold decodeNoOperand
  constructor
  · intro h
    split at h
    next hz => injection h with h; exact ⟨hz, h.symm⟩
    next => cases h
  · rintro ⟨rfl, rfl⟩
    rfl

theorem decodeResolve_eq_ok {arg : BitVec 12} {i : Instr} :
    decodeResolve arg = .ok i ↔ arg = 0 ∧ i = .resolve 0 := by
  unfold decodeResolve
  constructor
  · intro h
    split at h
    next hhi =>
      split at h
      next hlo =>
        injection h with h
        exact ⟨arg_eq_zero_iff_parts.mpr ⟨hhi, hlo⟩, by rw [← h, hlo]⟩
      next => cases h
    next => cases h
  · rintro ⟨rfl, rfl⟩
    rfl

/-! ### Encoding and decoding are inverse -/

theorem putcWord_eq_append (c : Byte) : 0x20#8 ++ c = 2#4 ++ (0#4 ++ c) :=
  BitVec.append_assoc (x₁ := 2#4) (x₂ := 0#4)

theorem rdoutWord_eq_append (k : BitVec 5) : 0x380#11 ++ k = 7#4 ++ (0#7 ++ k) :=
  BitVec.append_assoc (x₁ := 7#4) (x₂ := 0#7)

theorem decodeCommand_putcWord (c : Byte) : decodeCommand (0x20#8 ++ c) = .ok (.putc c) := by
  rw [putcWord_eq_append, decodeCommand, opField_append, argField_append]
  exact decodePutc_eq_ok.mpr ⟨c, rfl, rfl⟩

theorem decodeCommand_rdoutWord (k : BitVec 5) : decodeCommand (0x380#11 ++ k) = .ok (.rdout k) := by
  rw [rdoutWord_eq_append, decodeCommand, opField_append, argField_append]
  exact decodeRdout_eq_ok.mpr ⟨k, rfl, rfl⟩

/-- Settles O1, instruction by instruction: an operand is read back from below the zeros that stand above it. -/
theorem encodedInstructionsDecodeBack : Obligations.EncodedInstructionsDecodeBack := by
  intro i hi
  cases i with
  | putc c => exact decodeCommand_putcWord c
  | rdout k => exact decodeCommand_rdoutWord k
  | resolve l =>
    obtain rfl : l = 0 := by simpa [Instr.wellFormed] using hi
    rfl
  | _ => rfl

/-- The other direction: the only word that decodes to an instruction is its encoding. -/
theorem encode_of_decodeCommand {w : CmdWord} {i : Instr} (h : decodeCommand w = .ok i) :
    encode i = .command w := by
  unfold decodeCommand at h
  split at h
  case h_1 hop | h_2 hop | h_4 hop | h_6 hop | h_7 hop =>
    obtain ⟨harg, rfl⟩ := decodeNoOperand_eq_ok.mp h
    rw [eq_append_argField hop, harg]; rfl
  case h_3 hop =>
    obtain ⟨c, harg, rfl⟩ := decodePutc_eq_ok.mp h
    rw [eq_append_argField hop, harg, encode, putcWord_eq_append]
  case h_5 hop =>
    obtain ⟨harg, rfl⟩ := decodeResolve_eq_ok.mp h
    rw [eq_append_argField hop, harg]; rfl
  case h_8 hop =>
    obtain ⟨k, harg, rfl⟩ := decodeRdout_eq_ok.mp h
    rw [eq_append_argField hop, harg, encode, rdoutWord_eq_append]
  case h_9 => cases h

/-! ### The rows of the opcode map (R83) -/

/-- A row's mask fixes the bits above the operand and leaves the operand free. -/
theorem append_operand_of_masked {n k : Nat} {w : BitVec (n + k)} {hi : BitVec n}
    (h : w &&& (BitVec.allOnes n ++ 0#k) = hi ++ 0#k) : hi ++ w.extractLsb' 0 k = w := by
  have hhi := congrArg (BitVec.extractLsb' k n) h
  rw [BitVec.extractLsb'_and, BitVec.extractLsb'_append_eq_left, BitVec.extractLsb'_append_eq_left,
    BitVec.and_allOnes] at hhi
  rw [← hhi, BitVec.extractLsb'_append_extractLsb']

theorem eq_of_fullMask {w m : CmdWord} (h : w &&& 0xFFFF = m) : w = m := by
  rw [← h]
  exact BitVec.and_allOnes.symm

theorem decodeCommand_of_fullMask {w m : CmdWord} {i : Instr} (hm : decodeCommand m = .ok i)
    (h : w &&& 0xFFFF = m) : decodeCommand w = .ok i := by
  rwa [eq_of_fullMask h]

theorem decodeCommand_putcRow {w : CmdWord} (h : w &&& 0xFF00 = 0x2000) :
    decodeCommand w = .ok (.putc (w.extractLsb' 0 8)) := by
  have hw : 0x20#8 ++ w.extractLsb' 0 8 = w := append_operand_of_masked h
  rw [← decodeCommand_putcWord, hw]

theorem decodeCommand_resolveRow {w : CmdWord} (h : w &&& 0xFFFF = 0x4000) :
    decodeCommand w = .ok (.resolve (w.extractLsb' 0 4)) := by
  rw [eq_of_fullMask h]
  rfl

theorem decodeCommand_rdoutRow {w : CmdWord} (h : w &&& 0xFFE0 = 0x7000) :
    decodeCommand w = .ok (.rdout (w.extractLsb' 0 5)) := by
  have hw : 0x380#11 ++ w.extractLsb' 0 5 = w := append_operand_of_masked h
  rw [← decodeCommand_rdoutWord, hw]

/-- A word that decodes is the encoding of its instruction, and that lies in the instruction's row. -/
theorem decodeCommand_ne_ok_outside_rows {w : CmdWord} (hnop : w ≠ 0x0000) (hclr : w ≠ 0x1000)
    (hputc : w &&& 0xFF00 ≠ 0x2000) (hendw : w ≠ 0x3000) (hresolve : w ≠ 0x4000) (hdecode : w ≠ 0x5000)
    (hrdst : w ≠ 0x6000) (hrdout : w &&& 0xFFE0 ≠ 0x7000) (i : Instr) : decodeCommand w ≠ .ok i := by
  intro h
  obtain ⟨-, hwf⟩ := decodeCommand_ok h
  have hw := encode_of_decodeCommand h
  cases i with
  | nop => injection hw with hw; exact hnop hw.symm
  | clr => injection hw with hw; exact hclr hw.symm
  | putc c => injection hw with hw; exact hputc (hw ▸ Laws.EncodesInRow.putc c rfl)
  | endw => injection hw with hw; exact hendw hw.symm
  | resolve l =>
    obtain rfl : l = 0 := by simpa [Instr.wellFormed] using hwf
    injection hw with hw; exact hresolve hw.symm
  | decode => injection hw with hw; exact hdecode hw.symm
  | rdst => injection hw with hw; exact hrdst hw.symm
  | rdout k => injection hw with hw; exact hrdout (hw ▸ Laws.EncodesInRow.rdout k rfl)
  | _ => cases hw

/-- Settles O2, row by row. -/
theorem opcodeMapDecodes : Obligations.OpcodeMapDecodes := fun _ =>
  ⟨decodeCommand_of_fullMask rfl, decodeCommand_of_fullMask rfl, decodeCommand_putcRow, decodeCommand_of_fullMask rfl,
    decodeCommand_resolveRow, decodeCommand_of_fullMask rfl, decodeCommand_of_fullMask rfl, decodeCommand_rdoutRow,
    decodeCommand_ne_ok_outside_rows⟩

/-- Settles O4: the eight words are computed. -/
theorem sampleWordsDecode : Obligations.SampleWordsDecode :=
  ⟨rfl, rfl, rfl, rfl, rfl, rfl, rfl, rfl⟩

/-! ### Which words are legal (R85) -/

theorem ne_ok_iff_isSome {r : Except Reject Instr} : (∀ i, r ≠ .ok i) ↔ r.toOption.isSome = false := by
  cases r <;> simp [Except.toOption]

theorem isSome_ite_ok {c : Prop} [Decidable c] {i : Instr} {r : Reject} :
    (if c then Except.ok i else .error r).toOption.isSome = decide c := by
  split
  next hc => exact (decide_eq_true hc).symm
  next hc => exact (decide_eq_false hc).symm

theorem decodeNoOperand_isSome {i : Instr} {arg : BitVec 12} :
    (decodeNoOperand i arg).toOption.isSome = decide (arg = 0) := isSome_ite_ok

theorem decodePutc_isSome {arg : BitVec 12} :
    (decodePutc arg).toOption.isSome = decide (arg.extractLsb' 8 4 = 0) := isSome_ite_ok

theorem decodeRdout_isSome {arg : BitVec 12} :
    (decodeRdout arg).toOption.isSome = decide (arg.extractLsb' 5 7 = 0) := isSome_ite_ok

theorem decodeResolve_isSome {arg : BitVec 12} : (decodeResolve arg).toOption.isSome = decide (arg = 0) := by
  unfold decodeResolve
  split
  next hhi =>
    rw [isSome_ite_ok, decide_eq_decide, arg_eq_zero_iff_parts]
    exact (and_iff_right hhi).symm
  next hhi =>
    have harg : arg ≠ 0 := fun harg => hhi (arg_eq_zero_iff_parts.mp harg).1
    exact (decide_eq_false harg).symm

/-- The conditions of R85, opcode by opcode. -/
theorem decodeCommand_illegal_iff (w : CmdWord) : (∀ i, decodeCommand w ≠ .ok i) ↔
    (8 ≤ (opField w).toNat ∨
     ((opField w = 0 ∨ opField w = 1 ∨ opField w = 3 ∨ opField w = 5 ∨ opField w = 6) ∧ argField w ≠ 0) ∨
     (opField w = 2 ∧ (argField w).extractLsb' 8 4 ≠ 0) ∨
     (opField w = 4 ∧ (argField w).extractLsb' 4 8 ≠ 0) ∨
     (opField w = 4 ∧ (argField w).extractLsb' 0 4 ≠ 0) ∨
     (opField w = 7 ∧ (argField w).extractLsb' 5 7 ≠ 0)) := by
  rw [ne_ok_iff_isSome]
  unfold decodeCommand
  split
  case h_1 hop | h_2 hop | h_4 hop | h_6 hop | h_7 hop => simp [decodeNoOperand_isSome, opField_eq_ofNat hop]
  case h_3 hop => simp [decodePutc_isSome, opField_eq_ofNat hop]
  case h_5 hop =>
    simpa [decodeResolve_isSome, opField_eq_ofNat hop, ← not_and_or] using not_congr arg_eq_zero_iff_parts
  case h_8 hop => simp [decodeRdout_isSome, opField_eq_ofNat hop]
  case h_9 =>
    simp only [imp_false] at *
    exact iff_of_true rfl (.inl (by omega))

/-- The port answers an illegal word in every phase that accepts one, and does nothing else with it. -/
theorem refusedIllegal {w : CmdWord} (h : ∀ i, decodeCommand w ≠ .ok i) : RefusedIllegal w := by
  intro s ws hr hq hc
  cases hd : decodeCommand w with
  | ok i => exact absurd hd (h i)
  | error r =>
    rw [step_run hr, State.advance_resting (s := s.takeSample) hq, State.accept_error (s := s.takeSample) hc hd]
    rfl

/-! ### How many words are legal (R85) -/

/-- How many values of `arg` are legal under each opcode, always the lowest ones (R82, R85). -/
def legalArgs : Nat → Nat
  | 0 | 1 | 3 | 4 | 5 | 6 => 1
  | 2 => 256
  | 7 => 32
  | _ => 0

theorem decodeCommand_isSome (w : CmdWord) :
    (decodeCommand w).toOption.isSome = decide ((argField w).toNat < legalArgs (opField w).toNat) := by
  have hzero : argField w = 0 ↔ (argField w).toNat < 1 := by
    rw [← BitVec.toNat_inj, Nat.lt_one_iff]
    rfl
  unfold decodeCommand
  split
  case h_1 hop | h_2 hop | h_4 hop | h_6 hop | h_7 hop =>
    rw [decodeNoOperand_isSome, hop]
    exact decide_eq_decide.mpr hzero
  case h_3 hop =>
    rw [decodePutc_isSome, hop]
    exact decide_eq_decide.mpr (high_eq_zero_iff_toNat_lt (n := 4) (k := 8))
  case h_5 hop =>
    rw [decodeResolve_isSome, hop]
    exact decide_eq_decide.mpr hzero
  case h_8 hop =>
    rw [decodeRdout_isSome, hop]
    exact decide_eq_decide.mpr (high_eq_zero_iff_toNat_lt (n := 7) (k := 5))
  case h_9 => simp_all [legalArgs, Except.toOption]

/-- Counting over `m` blocks of `b` numbers is counting in each block. -/
theorem countP_range_mul (p : Nat → Bool) (b m : Nat) :
    (List.range (b * m)).countP p = ((List.range m).map fun q => (List.range b).countP fun r => p (b * q + r)).sum := by
  induction m with
  | zero => rfl
  | succ m ih =>
    rw [Nat.mul_succ, List.range_add, List.countP_append, ih, List.range_succ, List.map_append, List.sum_append,
      List.countP_map]
    simp [Function.comp_def]

theorem countP_range_lt {n m : Nat} (h : m ≤ n) : (List.range n).countP (fun k => decide (k < m)) = m := by
  obtain ⟨d, rfl⟩ := Nat.exists_eq_add_of_le h
  have hlow : (List.range m).countP (fun k => decide (k < m)) = (List.range m).length :=
    List.countP_eq_length.mpr fun k hk => decide_eq_true (List.mem_range.mp hk)
  rw [List.range_add, List.countP_append, hlow, List.length_range, List.countP_map]
  simp

theorem countP_legal_block {q : Nat} (hq : q < 16) :
    ((List.range 4096).countP fun r => (decodeCommand (BitVec.ofNat 16 (4096 * q + r))).toOption.isSome) =
      legalArgs q := by
  have hle : legalArgs q ≤ 4096 := by unfold legalArgs; split <;> decide
  calc _ = (List.range 4096).countP fun r => decide (r < legalArgs q) := by
        refine List.countP_congr fun r hr => ?_
        obtain ⟨hop, harg⟩ := fields_toNat_of_block hq (List.mem_range.mp hr)
        rw [decodeCommand_isSome, hop, harg]
    _ = legalArgs q := countP_range_lt hle

/-- One block of 4096 words for each opcode: 1 + 1 + 256 + 1 + 1 + 1 + 1 + 32. -/
theorem countP_legal :
    ((List.range 65536).countP fun n => (decodeCommand (BitVec.ofNat 16 n)).toOption.isSome) = 294 := by
  rw [show 65536 = 4096 * 16 by rfl, countP_range_mul]
  calc _ = ((List.range 16).map legalArgs).sum :=
        congrArg List.sum (List.map_congr_left fun q hq => countP_legal_block (List.mem_range.mp hq))
    _ = 294 := rfl

/-- Settles O3. -/
theorem illegalWordsAreRefused : Obligations.IllegalWordsAreRefused :=
  ⟨decodeCommand_illegal_iff, fun _ => refusedIllegal, countP_legal⟩

/-! ### The assembler (R90) -/

theorem putWords_eq_map (w : Word) : putWords w = w.map fun c => 0x2000 ||| c.setWidth 16 :=
  calc putWords w = w.flatMap fun c => [0x20#8 ++ c] := rfl
    _ = w.map fun c => 0x20#8 ++ c := List.map_eq_flatMap.symm
    _ = w.map fun c => 0x2000 ||| c.setWidth 16 := List.map_congr_left fun _ _ => BitVec.append_def ..

theorem asmReadout_eq_map : asmReadout = (List.range 32).map fun i => BitVec.ofNat 16 (0x7000 + i) := by decide

theorem cutAtSpaces_ne_nil (cur text : Word) : cutAtSpaces cur text ≠ [] := by
  induction text generalizing cur with
  | nil => simp [cutAtSpaces]
  | cons b bs ih =>
    unfold cutAtSpaces
    split
    next => simp
    next => exact ih _

theorem intercalate_cutAtSpaces (cur text : Word) :
    List.intercalate [0x20] (cutAtSpaces cur text) = cur ++ text := by
  induction text generalizing cur with
  | nil => simp [cutAtSpaces]
  | cons b bs ih =>
    unfold cutAtSpaces
    split
    next hb => rw [List.intercalate_cons_of_ne_nil (cutAtSpaces_ne_nil [] bs), ih, hb]; simp
    next => rw [ih]; simp

theorem space_notMem_cutAtSpaces {cur : Word} (hcur : (0x20 : Byte) ∉ cur) (text : Word) :
    ∀ w ∈ cutAtSpaces cur text, (0x20 : Byte) ∉ w := by
  induction text generalizing cur with
  | nil => simpa [cutAtSpaces] using hcur
  | cons b bs ih =>
    unfold cutAtSpaces
    split
    next => exact List.forall_mem_cons.mpr ⟨hcur, ih List.not_mem_nil⟩
    next hb =>
      have hcur' : (0x20 : Byte) ∉ cur ++ [b] := fun hmem =>
        (List.mem_append.mp hmem).elim hcur fun hmem => hb (List.mem_singleton.mp hmem).symm
      exact ih hcur'

/-- Settles O5: the bytes of a word one by one, and the pieces of a phrase by induction on its text. -/
theorem pseudoInstructionsExpand : Obligations.PseudoInstructionsExpand := by
  refine ⟨fun w => ?_, fun ws => rfl, fun text => ⟨rfl, ?_, ?_⟩, fun w => ?_, asmReadout_eq_map, rfl⟩
  · rw [asmWord, putWords_eq_map]; rfl
  · exact intercalate_cutAtSpaces [] text
  · exact space_notMem_cutAtSpaces List.not_mem_nil text
  · rw [asmAsk, putWords_eq_map]; rfl

end Sys2Proof.Machine

/-! PROOF. Every step answers a next state, and inside DECODE it runs the micro-operation `PHASE` selects
(R84, R86, R136, R160). -/

namespace Sys2Proof.Machine

theorem step_next (s : State) : ∃ t, step s = .next t := by
  cases hr : s.resetAsserted with
  | true => exact ⟨_, step_reset hr⟩
  | false =>
    rw [step_run hr]
    cases hm : s.takeSample.microOp with
    | some i =>
      obtain ⟨t, ht⟩ := exec_next i s.takeSample
      exact ⟨_, (State.advance_micro hm).trans (runMicro_next ht)⟩
    | none =>
      rw [State.advance_resting (State.microOp_none hm)]
      obtain ⟨-, ha⟩ | ⟨w, ws, i, -, -, ha⟩ | ⟨w, ws, r, -, -, ha⟩ := s.takeSample.accept_cases
      · exact ⟨_, ha⟩
      · exact ha ▸ exec_next i _
      · exact ⟨_, ha⟩

/-- Settles O47. -/
theorem nothingStopsTheMachine : Obligations.NothingStopsTheMachine := ⟨exec_next, step_next⟩

theorem State.microOp_of_phase {s : State} {p : Phase} {i : Instr} (hs : s.phase = p) (hp : p.resting = false)
    (hi : decodeMicro p.code .wordCount 0 = .ok i) : s.microOp = some i := by
  simp [State.microOp, hs, hp, hi, Except.toOption]

/-- Settles O7, from the micro-operation each of the eight phases selects. -/
theorem stepRunsTheSelectedMicroOperation : Obligations.StepRunsTheSelectedMicroOperation := by
  intro s i hsel hr
  have hm : s.takeSample.microOp = some i := by
    simp only [List.mem_cons, List.not_mem_nil, or_false, Prod.mk.injEq] at hsel
    obtain ⟨hp, rfl⟩ | ⟨hp, rfl⟩ | ⟨hp, rfl⟩ | ⟨hp, rfl⟩ | ⟨hp, rfl⟩ | ⟨hp, rfl⟩ | ⟨hp, rfl⟩ | ⟨hp, rfl⟩ := hsel <;>
      exact State.microOp_of_phase hp rfl rfl
  obtain ⟨t, ht⟩ := exec_next i s.takeSample
  refine ⟨t, ht, ?_⟩
  rw [step_run hr, State.advance_micro hm, runMicro_next ht]
  rfl

end Sys2Proof.Machine

/-! PROOF. The word resolver: lowering, keys, the two matching rules, the scan, and the RESOLVE command
(R100 to R105, R109, R111). -/

namespace Sys2Proof.Machine

/-! ### Lowering (R100) -/

theorem lower_of_capital {b : Byte} (hlo : 0x41 ≤ b.toNat) (hhi : b.toNat ≤ 0x5A) : lower b = b + 0x20 :=
  if_pos ⟨hlo, hhi⟩

theorem lower_of_not_capital {b : Byte} (h : b.toNat < 0x41 ∨ 0x5A < b.toNat) : lower b = b :=
  if_neg fun ⟨hlo, hhi⟩ => by omega

/-- Adding 0x20 to a capital does not wrap. -/
theorem lower_toNat_of_capital {b : Byte} (hlo : 0x41 ≤ b.toNat) (hhi : b.toNat ≤ 0x5A) :
    (lower b).toNat = b.toNat + 0x20 := by
  rw [lower_of_capital hlo hhi, BitVec.toNat_add]
  exact Nat.mod_eq_of_lt (Nat.lt_of_le_of_lt (Nat.add_le_add_right hhi 0x20) (by decide))

/-- A lowered byte is no capital, so lowering it again keeps it. -/
theorem lower_lower (b : Byte) : lower (lower b) = lower b := by
  by_cases h : 0x41 ≤ b.toNat ∧ b.toNat ≤ 0x5A
  · have hb := lower_toNat_of_capital h.1 h.2
    exact lower_of_not_capital (by omega)
  · rw [lower_of_not_capital (b := b) (by omega), lower_of_not_capital (by omega)]

theorem lowerWord_lowerWord (w : Word) : lowerWord (lowerWord w) = lowerWord w := by
  simp [lowerWord, lower_lower]

/-- Settles O30, byte by byte. -/
theorem lowerChangesOnlyCapitals : Obligations.LowerChangesOnlyCapitals :=
  ⟨fun _ => lower_toNat_of_capital, fun _ => lower_of_not_capital, fun _ => List.length_map _,
    fun _ _ => List.getElem?_map, lowerWord_lowerWord⟩

/-! ### Keys (R102) -/

/-- Past the end of a word both sides read 0, which `lower` keeps. -/
theorem lowerWord_getD (w : Word) (j : Nat) : (lowerWord w).getD j 0 = lower (w.getD j 0) :=
  List.getD_map w 0 lower

theorem key_ch (w : Word) : ∀ j : Fin 4, (key w).ch[j.val] = w.getD j.val 0
  | 0 | 1 | 2 | 3 => rfl

theorem lowerKey_ch (k : Key) : ∀ j : Fin 4, (lowerKey k).ch[j.val] = lower k.ch[j.val]
  | 0 | 1 | 2 | 3 => rfl

theorem key_lowerWord (w : Word) : key (lowerWord w) = lowerKey (key w) := by
  have hlen : (lowerWord w).length = w.length := List.length_map _
  simp only [key, lowerKey, lowerWord_getD, hlen]
  rfl

/-- Settles O31. -/
theorem keyKeepsFourBytes : Obligations.KeyKeepsFourBytes :=
  ⟨fun w => ⟨rfl, key_ch w⟩, fun k => ⟨rfl, lowerKey_ch k⟩, key_lowerWord⟩

/-- The bytes of a key that are in use. -/
def Key.bytes (k : Key) : Word := k.ch.toList.take k.len.val

theorem key_bytes : ∀ w : Word, (key w).bytes = w.take 4
  | [] | [_] | [_, _] | [_, _, _] => rfl
  | _ :: _ :: _ :: _ :: w => by simp [Key.bytes, key]

theorem key_take_four : ∀ w : Word, key (w.take 4) = key w
  | [] | [_] | [_, _] | [_, _, _] => rfl
  | _ :: _ :: _ :: _ :: w => by simp [key]

/-- A key holds neither more nor less than the first up to four bytes. -/
theorem key_eq_key_iff {u d : Word} : key u = key d ↔ u.take 4 = d.take 4 := by
  constructor
  · intro h
    rw [← key_bytes, h, key_bytes]
  · intro h
    rw [← key_take_four, h, key_take_four]

/-! ### The matching rules (R101, R103) -/

theorem prefixRule_iff {u d : Word} :
    prefixRule u d = true ↔ 4 ≤ u.length ∧ 4 ≤ d.length ∧ u.take 4 = d.take 4 := by
  simp [prefixRule, and_assoc]

theorem exactRule_iff {u d : Word} : exactRule u d = true ↔ u = d := beq_iff_eq

theorem wordMatch_iff_rules {u d : Word} :
    wordMatch u d = true ↔ (4 ≤ u.length ∧ 4 ≤ d.length ∧ u.take 4 = d.take 4) ∨ u = d := by
  rw [wordMatch, Bool.or_eq_true, prefixRule_iff, exactRule_iff]

theorem take_four_eq_iff {u d : Word} : u.take 4 = d.take 4 ↔ ∀ j : Nat, j < 4 → u[j]? = d[j]? := by
  rw [List.ext_getElem?_iff]
  refine forall_congr' fun j => ?_
  by_cases hj : j < 4 <;> simp [hj]

/-- Settles O32. -/
theorem matchIsPrefixOrExact : Obligations.MatchIsPrefixOrExact := by
  intro u d
  rw [wordMatch_iff_rules, take_four_eq_iff]

theorem length_min_four_of_take_eq {u d : Word} (h : u.take 4 = d.take 4) : min 4 u.length = min 4 d.length := by
  simpa using congrArg List.length h

theorem eq_iff_take_four_eq {u d : Word} (hu : u.length < 4) (hd : d.length < 4) :
    u = d ↔ u.take 4 = d.take 4 := by
  rw [List.take_of_length_le (Nat.le_of_lt hu), List.take_of_length_le (Nat.le_of_lt hd)]

/-- The two rules together compare the first up to four bytes: words that agree there are both of length at least 4, or
are both cut by nothing. -/
theorem wordMatch_iff_take {u d : Word} : wordMatch u d = true ↔ u.take 4 = d.take 4 := by
  rw [wordMatch_iff_rules]
  constructor
  · rintro (⟨-, -, h⟩ | rfl)
    · exact h
    · rfl
  · intro h
    have hlen := length_min_four_of_take_eq h
    by_cases hu : 4 ≤ u.length
    · exact .inl ⟨hu, by omega, h⟩
    · exact .inr ((eq_iff_take_four_eq (by omega) (by omega)).mpr h)

theorem wordMatch_iff_key {u d : Word} : wordMatch u d = true ↔ key u = key d :=
  wordMatch_iff_take.trans key_eq_key_iff.symm

theorem wordMatch_comm (u d : Word) : wordMatch u d = wordMatch d u := by
  rw [Bool.eq_iff_iff, wordMatch_iff_key, wordMatch_iff_key, eq_comm]

theorem wordMatch_long {u d : Word} (hu : 4 ≤ u.length) (hd : 4 ≤ d.length) : wordMatch u d = prefixRule u d := by
  rw [Bool.eq_iff_iff, wordMatch_iff_take, prefixRule_iff]
  simp [hu, hd]

theorem wordMatch_long_short {u d : Word} (hu : 4 ≤ u.length) (hd : d.length < 4) : wordMatch u d = false := by
  rw [Bool.eq_false_iff, Ne, wordMatch_iff_take]
  intro h
  have hlen := length_min_four_of_take_eq h
  omega

theorem wordMatch_short {u d : Word} (hu : u.length < 4) (hd : d.length < 4) : wordMatch u d = exactRule u d := by
  rw [Bool.eq_iff_iff, wordMatch_iff_take, exactRule_iff, eq_iff_take_four_eq hu hd]

theorem wordMatch_congr_left {u u' : Word} (h : u'.take 4 = u.take 4) (d : Word) :
    wordMatch u' d = wordMatch u d := by
  rw [Bool.eq_iff_iff, wordMatch_iff_take, wordMatch_iff_take, h]

/-- Settles O33. -/
theorem matchIsKeyEquality : Obligations.MatchIsKeyEquality := by
  refine ⟨fun u d => wordMatch_iff_key, fun u d => wordMatch_long, fun u d hu hd => ?_, fun u d => wordMatch_short,
    fun u u' d h => ?_⟩
  · rw [wordMatch_comm d u]
    exact ⟨wordMatch_long_short hu hd, wordMatch_long_short hu hd⟩
  · rw [wordMatch_comm d u', wordMatch_comm d u]
    exact ⟨wordMatch_congr_left h d, wordMatch_congr_left h d⟩

/-! ### The scan (R104, R105, R111) -/

/-- What an entry's key says of it is what the rules say of the lowercased word and the entry. -/
theorem key_eq_lowerKey_iff {d w : Word} : key d = lowerKey (key w) ↔ wordMatch (lowerWord w) d = true := by
  rw [wordMatch_iff_key, key_lowerWord, eq_comm]

/-- The source's scan over words is the hardware's scan over keys. -/
theorem resolve_eq_resolveKey (dict : Vector Word 2048) (w : Word) :
    resolve dict w = resolveKey dict (lowerKey (key w)) := by
  have hmatch : wordMatch (lowerWord w) = fun d => decide (key d = lowerKey (key w)) := by
    funext d
    rw [Bool.eq_iff_iff, decide_eq_true_iff, key_eq_lowerKey_iff]
  rw [resolve, resolveKey, hmatch]

theorem resolve_eq_some {dict : Vector Word 2048} {w : Word} {i : Fin 2048} :
    resolve dict w = some (BitVec.ofNat 11 i.val) ↔ LeastIndex dict (lowerKey (key w)) i := by
  rw [resolve_eq_resolveKey, resolveKey_eq_some, LeastIndex]

theorem resolve_eq_none {dict : Vector Word 2048} {w : Word} :
    resolve dict w = none ↔ NoIndex dict (lowerKey (key w)) := by
  rw [resolve_eq_resolveKey, resolveKey_eq_none, NoIndex]

/-- Settles O34. -/
theorem resolveFindsTheLeastIndex : Obligations.ResolveFindsTheLeastIndex :=
  fun _ _ => ⟨fun _ => resolve_eq_some, resolve_eq_none⟩

/-- Settles O35: the scan answers, since entry `i` matches, and its answer is the least such index. -/
theorem lowestIndexWins : Obligations.LowestIndexWins := by
  intro dict w i hi
  cases hr : resolve dict w with
  | none => exact absurd (key_eq_lowerKey_iff.mpr hi) (resolve_eq_none.mp hr i)
  | some x =>
    obtain ⟨k, rfl⟩ : ∃ k : Fin 2048, x = BitVec.ofNat 11 k.val := ⟨x.toFin, by simp⟩
    obtain ⟨hk, hleast⟩ := resolve_eq_some.mp hr
    refine ⟨k, ?_, rfl, key_eq_lowerKey_iff.mp hk, fun j hj => ?_⟩
    · exact not_lt.mp fun hlt => hleast i hlt (key_eq_lowerKey_iff.mpr hi)
    · exact Bool.eq_false_iff.mpr fun hm => hleast j hj (key_eq_lowerKey_iff.mpr hm)

theorem resolve_congr {w w' : Word} (h : lowerWord w = lowerWord w') (dict : Vector Word 2048) :
    resolve dict w = resolve dict w' := by
  rw [resolve, resolve, h]

/-- Settles O36: `resolve` reads the lowercased word only. -/
theorem resolveIgnoresCase : Obligations.ResolveIgnoresCase :=
  ⟨fun dict w => resolve_congr (lowerWord_lowerWord w).symm dict, fun dict _ _ h => (resolve_congr h dict).symm⟩

/-! ### The RESOLVE command (R109) -/

theorem foundWord_ofNat (i : Fin 2048) :
    foundWord (some (BitVec.ofNat 11 i.val)) = 0x0800 ||| BitVec.ofNat 16 i.val := by
  have hi : (BitVec.ofNat 11 i.val).setWidth 16 = BitVec.ofNat 16 i.val :=
    BitVec.eq_of_toNat_eq (by simp)
  rw [← hi]
  exact BitVec.append_def ..

theorem exec_resolve_idle {s : State} (hp : s.phase = .idle) :
    exec (.resolve 0) s =
      .next { s with wbuf := Key.empty, rsps := s.rsps ++ [foundWord (resolveKey s.dict (lowerKey s.wbuf))] } :=
  State.gate_allowed (decide_eq_true hp) fun s => s.clearWord.respond (foundWord s.resolveWord)

theorem exec_resolve_elsewhere {s : State} (hp : s.phase ≠ .idle) :
    exec (.resolve 0) s = .next (refusedState s 0x8002) :=
  State.gate_refused (decide_eq_false hp) fun s => s.clearWord.respond (foundWord s.resolveWord)

theorem exec_resolve_reserved {l : BitVec 4} (hl : l ≠ 0) (s : State) :
    exec (.resolve l) s = .next (refusedState s 0x8001) :=
  if_neg hl

/-- In the block of 4096 words of one opcode, those past the legal values of `arg` are refused (R85). -/
theorem refusedIllegal_of_block {q : Nat} {w : CmdWord} (hlo : 4096 * q + legalArgs q ≤ w.toNat)
    (hhi : w.toNat < 4096 * (q + 1)) : RefusedIllegal w := by
  obtain ⟨r, hr⟩ := Nat.exists_eq_add_of_le (Nat.le_of_add_right_le hlo)
  have hw : w = BitVec.ofNat 16 (4096 * q + r) := by rw [← hr, BitVec.ofNat_toNat, BitVec.setWidth_eq]
  obtain ⟨hop, harg⟩ := fields_toNat_of_block (q := q) (r := r) (by omega) (by omega)
  refine refusedIllegal (ne_ok_iff_isSome.mpr ?_)
  rw [decodeCommand_isSome, hw, hop, harg]
  exact decide_eq_false (by omega)

/-- Settles O15: in IDLE the answer is that of the scan over keys, which finds the least index and is `resolve` for the
key of a word. -/
theorem resolveAnswersTheLeastIndex : Obligations.ResolveAnswersTheLeastIndex := by
  refine ⟨rfl, fun s i hp hi => ?_, fun s hp hn => ?_, fun s => exec_resolve_elsewhere,
    fun s l hl => exec_resolve_reserved hl s, fun s w hp hw => ?_, fun w hlo hhi => ?_⟩
  · rw [exec_resolve_idle hp, resolveKey_eq_some.mpr hi, foundWord_ofNat]
  · rw [exec_resolve_idle hp, resolveKey_eq_none.mpr hn]
    rfl
  · rw [exec_resolve_idle hp, hw, resolve_eq_resolveKey]
  · exact refusedIllegal_of_block (q := 4) hlo (Nat.lt_succ_of_le hhi)

end Sys2Proof.Machine

/-! PROOF. The bit packer and unpacker: the stream bit by bit and as a number, the hardware's sixteen bytes, and the
general unpacker they are an instance of (R120 to R126). -/

namespace Sys2Proof.Machine

/-! ### The stream bit by bit (R120, R122) -/

/-- The stream of indices 0 to n only: `pack` as a recursion, so that facts about it are inductions. -/
def packUpTo (idx : Vector Index 12) : (n : Nat) → n < 12 → BitVec (11 * (n + 1))
  | 0, _ => idx[0]
  | n + 1, h => packUpTo idx n (by omega) ++ idx[n + 1]

theorem pack_eq_packUpTo (idx : Vector Index 12) : pack idx = packUpTo idx 11 (by omega) := rfl

theorem packUpTo_getMsbD (idx : Vector Index 12) {n k b : Nat} (hn : n < 12) (hk : k ≤ n) (hb : b < 11) :
    (packUpTo idx n hn).getMsbD (11 * k + b) = idx[k].getMsbD b := by
  induction n with
  | zero =>
    obtain rfl : k = 0 := by omega
    simp [packUpTo]
  | succ n ih =>
    rw [packUpTo, BitVec.getMsbD_append]
    by_cases hlast : k = n + 1
    · subst hlast
      rw [if_pos (by omega), Nat.add_sub_cancel_left]
    · rw [if_neg (by omega), ih (by omega) (by omega)]

theorem streamBit_pack (idx : Vector Index 12) {k b : Nat} (hk : k < 12) (hb : b < 11) :
    streamBit (pack idx) (11 * k + b) = idx[k].getMsbD b := by
  rw [streamBit, pack_eq_packUpTo, packUpTo_getMsbD idx (by omega) (by omega) hb]

theorem pack_injective : Function.Injective pack := by
  intro idx idx' h
  apply Vector.ext
  intro k hk
  apply BitVec.eq_of_getMsbD_eq
  intro b hb
  rw [← streamBit_pack idx hk hb, h, streamBit_pack idx' hk hb]

/-- Settles O37: from the bit the append puts at each position. -/
theorem packPlacesEveryIndexBit : Obligations.PackPlacesEveryIndexBit := by
  refine ⟨fun idx k b => ?_, fun _ _ h => pack_injective h⟩
  rw [streamBit_pack idx k.isLt b.isLt, BitVec.getMsbD_eq_getLsbD]
  simp [b.isLt]

/-- Settles O23. -/
theorem packWritesTheStream : Obligations.PackWritesTheStream :=
  ⟨fun _ => rfl, by decide, by decide⟩

/-! ### The stream as a number (R121) -/

theorem toNat_append_eq_add {m n : Nat} (x : BitVec m) (y : BitVec n) :
    (x ++ y).toNat = x.toNat * 2 ^ n + y.toNat := by
  rw [BitVec.toNat_append, ← Nat.shiftLeft_add_eq_or_of_lt y.isLt, Nat.shiftLeft_eq]

/-- An index moves up eleven places when the next one is appended. -/
theorem weight_succ {n k : Nat} (hk : k ≤ n) (x : Nat) :
    x * 2 ^ (11 * (n + 1 - k)) = x * 2 ^ (11 * (n - k)) * 2 ^ 11 := by
  rw [Nat.mul_assoc, ← Nat.pow_add, show 11 * (n + 1 - k) = 11 * (n - k) + 11 by omega]

theorem packUpTo_toNat (idx : Vector Index 12) {n : Nat} (hn : n < 12) : (packUpTo idx n hn).toNat =
    ((List.finRange (n + 1)).map fun k => idx[k.val].toNat * 2 ^ (11 * (n - k.val))).sum := by
  induction n with
  | zero => simp [packUpTo, show List.finRange 1 = [0] from rfl]
  | succ n ih =>
    rw [packUpTo, toNat_append_eq_add, ih, ← List.sum_map_mul_right, List.finRange_succ_last (n := n + 1)]
    simp [Function.comp_def, weight_succ (Nat.le_of_lt_succ (Fin.isLt _))]

theorem pack_toNat (idx : Vector Index 12) : (pack idx).toNat =
    ((List.finRange 12).map fun k => idx[k.val].toNat * 2 ^ (11 * (11 - k.val))).sum := by
  rw [pack_eq_packUpTo, packUpTo_toNat]

theorem streamBit_eq_getLsbD (b : BitVec 132) {p : Nat} (hp : p < 132) : streamBit b p = b.getLsbD (131 - p) := by
  simp [streamBit, BitVec.getMsbD_eq_getLsbD, hp]

theorem entOf_toNat (b : BitVec 132) : (entOf b).toNat = b.toNat >>> 4 := by
  rw [entOf, BitVec.extractLsb'_toNat, Nat.mod_eq_of_lt]
  have := b.isLt
  omega

theorem chkOf_toNat (b : BitVec 132) : (chkOf b).toNat = b.toNat % 16 := by
  rw [chkOf, BitVec.extractLsb'_toNat, Nat.shiftRight_zero]

theorem chkOf_pack_toNat (idx : Vector Index 12) : (chkOf (pack idx)).toNat = idx[11].toNat % 16 := by
  rw [chkOf_toNat, pack, toNat_append_eq_add]
  omega

/-- Settles O38, by Horner's rule along the appends. -/
theorem streamAsANumber : Obligations.StreamAsANumber :=
  ⟨pack_toNat, fun b _ => streamBit_eq_getLsbD b, fun b => ⟨entOf_toNat b, chkOf_toNat b⟩, chkOf_pack_toNat⟩

/-! ### The hardware's sixteen bytes (R124 to R126) -/

theorem entByte_getMsbD (e : BitVec 128) {j k : Nat} (hj : j < 16) (hk : k < 8) :
    (entByte e j).getMsbD k = e.getMsbD (8 * j + k) := by
  have hin : 8 * (15 - j) + 8 - k ≤ 128 := by omega
  rw [entByte, BitVec.getMsbD_extractLsb', show 128 - (8 * (15 - j) + 8 - k) = 8 * j + k by omega]
  simp [hk, hin]

/-- The entropy region is the front of the stream. -/
theorem entOf_getMsbD (b : BitVec 132) {p : Nat} (hp : p < 128) : (entOf b).getMsbD p = streamBit b p := by
  rw [entOf, BitVec.getMsbD_extractLsb', streamBit, show 132 - (4 + 128 - p) = p by omega]
  simp [hp]

theorem unpack16_entOf_getMsbD (b : BitVec 132) {j k : Nat} (hj : j < 16) (hk : k < 8) :
    (unpack16 (entOf b))[j].getMsbD k = streamBit b (8 * j + k) := by
  rw [unpack16_get, entByte_getMsbD _ hj hk, entOf_getMsbD _ (by omega)]

/-- Settles O26: the bytes are cut from the front of the stream. -/
theorem unpackWritesSixteenBytes : Obligations.UnpackWritesSixteenBytes := fun s =>
  ⟨unpack16 (entOf s.bits), rfl, fun j k => unpack16_entOf_getMsbD s.bits j.isLt k.isLt⟩

/-- Settles O41: a byte's bit is a stream position, and a stream position is an index's bit. -/
theorem bytesDrawOnTheirWords : Obligations.BytesDrawOnTheirWords := by
  intro idx j k
  have hword : (8 * j.val + k.val) / 11 < 12 := by omega
  refine ⟨hword, ?_⟩
  rw [unpack16_entOf_getMsbD _ j.isLt k.isLt, ← streamBit_pack idx hword (Nat.mod_lt _ (by decide)), Nat.div_add_mod]

/-! ### The general unpacker (R123) -/

theorem bitsToNat_append_singleton (bs : List Bool) (b : Bool) :
    bitsToNat (bs ++ [b]) = 2 * bitsToNat bs + b.toNat := by simp [bitsToNat]

theorem bitsToNat_cons (b : Bool) (bs : List Bool) :
    bitsToNat (b :: bs) = b.toNat * 2 ^ bs.length + bitsToNat bs := by
  induction bs using List.reverseRecOn with
  | nil => simp [bitsToNat]
  | append_singleton bs c ih =>
    rw [← List.cons_append, bitsToNat_append_singleton, bitsToNat_append_singleton, ih, List.length_append,
      List.length_singleton, Nat.pow_succ]
    ring

/-- A base-2 value is the number of the bit vector with the same digits. -/
theorem bitsToNat_eq_toNat (bs : List Bool) : bitsToNat bs = (BitVec.ofBoolListBE bs).toNat := by
  induction bs with
  | nil => rfl
  | cons b bs ih => rw [bitsToNat_cons, ih, BitVec.ofBoolListBE, BitVec.toNat_cons', Nat.shiftLeft_eq]

theorem bitsToNat_lt (bs : List Bool) : bitsToNat bs < 2 ^ bs.length := by
  rw [bitsToNat_eq_toNat]
  exact BitVec.isLt _

/-- Group j, as long as the fuel covers the string. -/
theorem bitGroups_getElem? {g : Nat} (hg : 0 < g) {fuel : Nat} {s : List Bool} (hfuel : s.length ≤ fuel) (j : Nat) :
    (bitGroups g fuel s)[j]? = if g * j < s.length then some ((s.drop (g * j)).take g) else none := by
  induction fuel generalizing s j with
  | zero =>
    obtain rfl := List.eq_nil_of_length_eq_zero (Nat.le_zero.mp hfuel)
    simp [bitGroups]
  | succ fuel ih =>
    cases s with
    | nil => simp [bitGroups]
    | cons b bs =>
      cases j with
      | zero => simp [bitGroups]
      | succ j =>
        have hrest : ((b :: bs).drop g).length ≤ fuel := by
          simp only [List.length_drop, List.length_cons] at hfuel ⊢
          omega
        have hstart : g * j < ((b :: bs).drop g).length ↔ g * (j + 1) < (b :: bs).length := by
          rw [List.length_drop, Nat.mul_succ]
          omega
        rw [bitGroups, List.getElem?_cons_succ, ih hrest, List.drop_drop, Nat.mul_succ, Nat.add_comm]
        simp only [hstart, Nat.mul_succ]

theorem unpackBytes_getElem? {g : Nat} (hg : 0 < g) (s : List Bool) (j : Nat) : (unpackBytes s g)[j]? =
    if g * j < s.length then some (BitVec.ofNat 8 (bitsToNat ((s.drop (g * j)).take g))) else none := by
  rw [unpackBytes, List.getElem?_map, bitGroups_getElem? hg le_rfl]
  split <;> rfl

theorem lt_length_unpackBytes_iff {g : Nat} (hg : 0 < g) (s : List Bool) (j : Nat) :
    j < (unpackBytes s g).length ↔ g * j < s.length := by
  rw [← Nat.not_le, ← List.getElem?_eq_none_iff, unpackBytes_getElem? hg]
  split <;> simp [*]

/-- Settles O39: the group at every position gives the contents and the count. -/
theorem unpackBytesReadsGroups : Obligations.UnpackBytesReadsGroups := by
  refine ⟨fun s => ?_, fun s j hj => ?_, bitsToNat_lt, fun bs b => bitsToNat_cons b bs⟩
  · have hcount := lt_length_unpackBytes_iff (g := 8) (by decide) s
    have hend := hcount (unpackBytes s 8).length
    have hlast := hcount ((unpackBytes s 8).length - 1)
    omega
  · rw [unpackBytes_getElem? (by decide), if_pos hj]

/-! ### The hardware's unpacker is the general one on 128 bits (R124) -/

/-- Digits read base 2 into as many bits are those bits, the first on top. -/
theorem ofNat_bitsToNat_getMsbD {bs : List Bool} {n : Nat} (hlen : bs.length = n) (k : Nat) :
    (BitVec.ofNat n (bitsToNat bs)).getMsbD k = bs.getD k false := by
  subst hlen
  rw [bitsToNat_eq_toNat, BitVec.ofNat_toNat, BitVec.setWidth_eq, BitVec.getMsbD_ofBoolListBE]

theorem bitString_length (e : BitVec 128) : (bitString e).length = 128 := List.length_ofFn

theorem bitString_getElem? (e : BitVec 128) {p : Nat} (hp : p < 128) : (bitString e)[p]? = some (e.getMsbD p) := by
  rw [bitString, List.getElem?_ofFn, dif_pos hp]

theorem entByte_eq_ofNat (e : BitVec 128) {j : Nat} (hj : j < 16) :
    entByte e j = BitVec.ofNat 8 (bitsToNat (((bitString e).drop (8 * j)).take 8)) := by
  have hlen : (((bitString e).drop (8 * j)).take 8).length = 8 := by
    rw [List.length_take, List.length_drop, bitString_length]
    omega
  apply BitVec.eq_of_getMsbD_eq
  intro k hk
  rw [ofNat_bitsToNat_getMsbD hlen, List.getD_eq_getElem?_getD, List.getElem?_take_of_lt hk, List.getElem?_drop,
    bitString_getElem? e (by omega), entByte_getMsbD e hj hk, Option.getD_some]

theorem unpack16_toList (e : BitVec 128) : (unpack16 e).toList = unpackBytes (bitString e) 8 := by
  apply List.ext_getElem?
  intro j
  rw [unpackBytes_getElem? (by decide), bitString_length]
  by_cases hj : j < 16
  · rw [if_pos (by omega), List.getElem?_eq_getElem (by simpa using hj), Vector.getElem_toList, unpack16_get,
      entByte_eq_ofNat e hj]
  · rw [if_neg (by omega), List.getElem?_eq_none (by simpa using hj)]

theorem entByte_toNat (e : BitVec 128) (j : Nat) : (entByte e j).toNat = (e.toNat >>> (8 * (15 - j))) &&& 0xFF := by
  rw [entByte, BitVec.extractLsb'_toNat, ← Nat.and_two_pow_sub_one_eq_mod]

/-- Settles O40: both sides are the same byte at every position. -/
theorem unpackSixteenMeetsTheContract : Obligations.UnpackSixteenMeetsTheContract := by
  refine ⟨unpack16_toList, fun e j => ?_⟩
  rw [unpack16_get, entByte_toNat]

end Sys2Proof.Machine

/-! PROOF. DECODE's acceptance and the micro-operations one by one (R136, R138 to R140, R142, R143, R145 to R147). -/

namespace Sys2Proof.Machine

/-! ### Acceptance (R136) -/

theorem exec_decode_idle {s : State} (hp : s.phase = .idle) :
    exec .decode s = .next { s with wbuf := Key.empty, phase := .sCount } :=
  State.gate_allowed (decide_eq_true hp) fun s => { s.clearWord with phase := .sCount }

theorem exec_decode_elsewhere {s : State} (hp : s.phase ≠ .idle) : exec .decode s = .next (refusedState s 0x8002) :=
  State.gate_refused (decide_eq_false hp) fun s => { s.clearWord with phase := .sCount }

/-- Settles O16. -/
theorem decodeEntersTheSequencer : Obligations.DecodeEntersTheSequencer :=
  ⟨rfl, fun _ => exec_decode_idle, fun _ => exec_decode_elsewhere,
    fun _ hlo hhi => refusedIllegal_of_block (q := 5) hlo (Nat.lt_succ_of_le hhi)⟩

/-! ### The entry actions of DONE and FAIL (R146, R147) -/

/-- S_FAIL's shared operation, written register by register. -/
theorem State.raise_eq_failedState (s : State) (kind : ErrKind) (pos : Fin 12) :
    s.raise kind pos = failedState s kind pos := rfl

/-- Settles O29. -/
theorem failRecordsAndZeroises : Obligations.FailRecordsAndZeroises :=
  fun s kind pos => congrArg Host.Outcome.next (s.raise_eq_failedState kind pos)

/-- Settles O28: `State.finish` written out. -/
theorem finishZeroisesAndEntersDone : Obligations.FinishZeroisesAndEntersDone := fun _ => rfl

/-! ### Steps 1 and 2 (R138, R139) -/

theorem exec_sCount_twelve {s : State} (h : s.wcnt.val = 12) :
    exec .sCount s = .next { s with phase := .sLangsel } :=
  congrArg Host.Outcome.next (if_pos h)

theorem exec_sCount_other {s : State} (h : s.wcnt.val ≠ 12) : exec .sCount s = .next (s.raise .wordCount 0) :=
  congrArg Host.Outcome.next (if_neg h)

/-- Settles O20. -/
theorem countTestsForTwelveWords : Obligations.CountTestsForTwelveWords :=
  ⟨fun _ => exec_sCount_twelve, fun _ => exec_sCount_other⟩

/-- Settles O21. -/
theorem langselStartsAtWordZero : Obligations.LangselStartsAtWordZero := ⟨fun _ => rfl, rfl⟩

/-! ### Step 3 (R140) -/

/-- What phrase slot `k` resolves to. -/
def State.slotIndex (s : State) (k : Fin 12) : Option Index := resolveKey s.dict (lowerKey s.ph[k.val])

theorem State.resolveSlot_eq_slotIndex (s : State) : s.resolveSlot = s.slotIndex s.widx := rfl

theorem State.slotIndex_of_key {s : State} {k : Fin 12} {w : Word} (h : s.ph[k.val] = key w) :
    s.slotIndex k = resolve s.dict w := by
  rw [State.slotIndex, h, resolve_eq_resolveKey]

theorem exec_sResolvew_more {s : State} {i : Index} (hi : s.slotIndex s.widx = some i) (h : s.widx.val < 11) :
    exec .sResolvew s = .next { s with idx := s.idx.set s.widx.val i, widx := nextSlot s.widx } := by
  rw [exec, execSResolvew, s.resolveSlot_eq_slotIndex, hi]
  exact congrArg Host.Outcome.next (if_neg (Nat.ne_of_lt h))

theorem exec_sResolvew_last {s : State} {i : Index} (hi : s.slotIndex s.widx = some i) (h : s.widx.val = 11) :
    exec .sResolvew s = .next { s with idx := s.idx.set s.widx.val i, phase := .sPack } := by
  rw [exec, execSResolvew, s.resolveSlot_eq_slotIndex, hi]
  exact congrArg Host.Outcome.next (if_pos h)

theorem exec_sResolvew_unknown {s : State} (hi : s.slotIndex s.widx = none) :
    exec .sResolvew s = .next (s.raise .unknownWord s.widx) := by
  rw [exec, execSResolvew, s.resolveSlot_eq_slotIndex, hi]

theorem nextSlot_eq {k : Fin 12} (h : k.val < 11) : nextSlot k = ⟨k.val + 1, by omega⟩ := Fin.ext (nextSlot_val h)

/-- Settles O22, from what the scan answers for the slot. -/
theorem resolvewResolvesOneWord : Obligations.ResolvewResolvesOneWord := by
  refine ⟨fun s i hi h => ?_, fun s i hi h => ?_, fun s hn => ?_, fun s w => State.slotIndex_of_key⟩
  · rw [exec_sResolvew_more (resolveKey_eq_some.mpr hi) h, nextSlot_eq h]
  · exact exec_sResolvew_last (resolveKey_eq_some.mpr hi) h
  · exact exec_sResolvew_unknown (resolveKey_eq_none.mpr hn)

/-! ### Steps 5, 6 and 8 (R142, R143, R145) -/

/-- The checksum region is the end of the stream. -/
theorem chkOf_getMsbD (b : BitVec 132) {p : Nat} (hp : p < 4) : (chkOf b).getMsbD p = streamBit b (128 + p) := by
  have hin : 4 ≤ 132 + p := by omega
  rw [chkOf, BitVec.getMsbD_extractLsb', streamBit, show 132 - (0 + 4 - p) = 128 + p by omega]
  simp [hp, hin]

/-- Settles O24. -/
theorem splitMovesNoData : Obligations.SplitMovesNoData :=
  ⟨fun _ => rfl, fun b _ => entOf_getMsbD b, fun b _ => chkOf_getMsbD b⟩

theorem exec_sCheck_zero {s : State} (h : chkOf s.bits = 0) : exec .sCheck s = .next { s with phase := .sUnpack } :=
  congrArg Host.Outcome.next (if_pos h)

theorem exec_sCheck_nonzero {s : State} (h : chkOf s.bits ≠ 0) : exec .sCheck s = .next (s.raise .checksum 0) :=
  congrArg Host.Outcome.next (if_neg h)

theorem chkOf_pack_eq_zero_iff (idx : Vector Index 12) : chkOf (pack idx) = 0 ↔ idx[11].toNat % 16 = 0 := by
  rw [← BitVec.toNat_inj, chkOf_pack_toNat]
  rfl

/-- Settles O25. -/
theorem checkRequiresZeroChecksum : Obligations.CheckRequiresZeroChecksum :=
  ⟨fun _ => exec_sCheck_zero, fun _ => exec_sCheck_nonzero, chkOf_pack_eq_zero_iff,
    Nat.count_modEq_card 2048 (r := 16) (by decide) 0⟩

/-- Settles O27. -/
theorem dupWritesBothHalves : Obligations.DupWritesBothHalves := by
  refine fun s => ⟨duplicate s.eb, rfl, ⟨_, rfl, rfl, rfl⟩, fun j => ⟨duplicate_low s.eb j.val j.isLt, ?_⟩⟩
  simpa only [Nat.add_comm] using duplicate_high s.eb j.val j.isLt

end Sys2Proof.Machine

/-! PROOF. The function `decode`: which defect it reports, when it succeeds, and what it does not see of a word
(R135, R145, R149, R184). -/

namespace Sys2Proof.Machine

/-! ### Step 3 of the function -/

theorem resolveAll_cons_unknown {dict : Vector Word 2048} {w : Word} (hw : resolve dict w = none) (k : Nat)
    (ws : List Word) : resolveAll dict k (w :: ws) = .error (.unknownWord k w) := by
  simp only [resolveAll, hw]

theorem resolveAll_cons_resolved {dict : Vector Word 2048} {w : Word} {i : Index} (hw : resolve dict w = some i)
    (k : Nat) (ws : List Word) : resolveAll dict k (w :: ws) = (resolveAll dict (k + 1) ws).map (i :: ·) := by
  simp only [resolveAll, hw]
  cases resolveAll dict (k + 1) ws <;> rfl

/-- The scan over the words succeeds exactly when every word resolves, with what they resolve to. -/
theorem resolveAll_eq_ok_iff {dict : Vector Word 2048} {k : Nat} {ws : List Word} {is : List Index} :
    resolveAll dict k ws = .ok is ↔ ws.map (resolve dict) = is.map some := by
  induction ws generalizing k is with
  | nil => cases is <;> simp [resolveAll]
  | cons w ws ih =>
    cases hw : resolve dict w with
    | none => cases is <;> simp [resolveAll_cons_unknown hw, hw]
    | some i =>
      have hrest : ∀ js, resolveAll dict (k + 1) ws = .ok js ↔ ws.map (resolve dict) = js.map some := fun _ => ih
      rw [resolveAll_cons_resolved hw]
      cases is with
      | nil => cases resolveAll dict (k + 1) ws <;> simp [Except.map]
      | cons j js =>
        rw [List.map_cons, List.map_cons, hw, List.cons.injEq, Option.some.injEq, ← hrest]
        cases resolveAll dict (k + 1) ws <;> simp [Except.map]

/-- The scan over the words stops at the first one that does not resolve, `k` places after its start. -/
theorem resolveAll_unknown {dict : Vector Word 2048} {w : Word} (hw : resolve dict w = none) {ws : List Word} {k : Nat}
    (hk : ws[k]? = some w) (hbefore : ∀ (j : Nat) (v : Word), j < k → ws[j]? = some v → resolve dict v ≠ none)
    (start : Nat) : resolveAll dict start ws = .error (.unknownWord (start + k) w) := by
  induction ws generalizing k start with
  | nil => simp at hk
  | cons v ws ih =>
    cases k with
    | zero =>
      obtain rfl : v = w := by simpa using hk
      rw [resolveAll_cons_unknown hw, Nat.add_zero]
    | succ k =>
      obtain ⟨i, hi⟩ := Option.ne_none_iff_exists'.mp (hbefore 0 v (by omega) rfl)
      have hbefore' : ∀ (j : Nat) (u : Word), j < k → ws[j]? = some u → resolve dict u ≠ none :=
        fun j u hj hu => hbefore (j + 1) u (by omega) (by simpa using hu)
      have hrest := ih (by simpa using hk) hbefore' (start + 1)
      rw [resolveAll_cons_resolved hi, hrest, Nat.add_assoc, Nat.add_comm 1 k]
      rfl

/-! ### The function's outcomes (R135, R184) -/

theorem toSlots_toList (idx : Vector Index 12) : toSlots idx.toList = idx := by
  apply Vector.ext
  intro k hk
  simp [toSlots]

theorem length_of_map_eq_toList {α β : Type} {f : α → β} {ws : List α} {n : Nat} {idx : Vector Index n}
    {g : Index → β} (h : ws.map f = idx.toList.map g) : ws.length = n := by
  simpa using congrArg List.length h

theorem decodePhrase_wordCount {ws : List Word} (h : ws.length ≠ 12) (dict : Vector Word 2048) :
    decodePhrase dict ws = .error .wordCount := if_neg h

theorem decodePhrase_unknown {dict : Vector Word 2048} {ws : List Word} {k : Nat} {w : Word} (h : ws.length = 12)
    (hk : ws[k]? = some w) (hw : resolve dict w = none)
    (hbefore : ∀ (j : Nat) (v : Word), j < k → ws[j]? = some v → resolve dict v ≠ none) :
    decodePhrase dict ws = .error (.unknownWord k w) := by
  rw [decodePhrase, if_pos h, resolveAll_unknown hw hk hbefore, Nat.zero_add]

/-- With every word resolved the checksum region decides. -/
theorem decodePhrase_resolved {dict : Vector Word 2048} {ws : List Word} {idx : Vector Index 12}
    (h : ws.map (resolve dict) = idx.toList.map some) :
    decodePhrase dict ws =
      if chkOf (pack idx) = 0 then .ok (duplicate (unpack16 (entOf (pack idx)))) else .error .checksum := by
  rw [decodePhrase, if_pos (length_of_map_eq_toList h), resolveAll_eq_ok_iff.mpr h]
  simp only [toSlots_toList]

/-- Settles O42. -/
theorem decodeReportsTheFirstDefect : Obligations.DecodeReportsTheFirstDefect := by
  refine fun dict ws => ⟨fun h => decodePhrase_wordCount h dict, fun k w => decodePhrase_unknown, fun idx h hchk => ?_,
    fun idx h hchk => ?_⟩
  · rw [decodePhrase_resolved h, if_neg (mt (chkOf_pack_eq_zero_iff idx).mp hchk)]
  · rw [decodePhrase_resolved h, if_pos ((chkOf_pack_eq_zero_iff idx).mpr hchk)]

/-! ### Success (R145, R149) -/

/-- A success is twelve words that resolve, to indices with a zero checksum region. -/
theorem decodePhrase_eq_ok_iff {dict : Vector Word 2048} {ws : List Word} {out : Vector Byte 32} :
    decodePhrase dict ws = .ok out ↔
      ∃ idx : Vector Index 12, ws.map (resolve dict) = idx.toList.map some ∧ chkOf (pack idx) = 0 ∧
        duplicate (unpack16 (entOf (pack idx))) = out := by
  constructor
  · intro h
    by_cases hlen : ws.length = 12
    · cases hr : resolveAll dict 0 ws with
      | error e => simp [decodePhrase, hlen, hr] at h
      | ok is =>
        have his := resolveAll_eq_ok_iff.mp hr
        obtain ⟨idx, rfl⟩ : ∃ idx : Vector Index 12, idx.toList = is :=
          ⟨⟨is.toArray, by simpa [hlen] using (congrArg List.length his).symm⟩, rfl⟩
        rw [decodePhrase_resolved his] at h
        split at h
        next hchk => injection h with h; exact ⟨idx, his, hchk, h⟩
        next => cases h
    · simp [decodePhrase_wordCount hlen] at h
  · rintro ⟨idx, h, hchk, rfl⟩
    rw [decodePhrase_resolved h, if_pos hchk]

/-- Settles O43. -/
theorem decodeSuccessHasEqualHalves : Obligations.DecodeSuccessHasEqualHalves := by
  intro dict ws out h
  obtain ⟨idx, hidx, -, rfl⟩ := decodePhrase_eq_ok_iff.mp h
  refine ⟨length_of_map_eq_toList hidx, fun j => ?_⟩
  have hhigh := duplicate_high (unpack16 (entOf (pack idx))) j.val j.isLt
  simp only [Nat.add_comm j.val 16] at hhigh
  rw [hhigh, duplicate_low _ j.val j.isLt]

/-- The resolver sees four bytes of a word. -/
theorem resolve_take_four (dict : Vector Word 2048) (w : Word) : resolve dict (w.take 4) = resolve dict w := by
  rw [resolve_eq_resolveKey, key_take_four, ← resolve_eq_resolveKey]

/-- A success depends on what the words resolve to alone. -/
theorem decodePhrase_ok_congr {dict : Vector Word 2048} {ws ws' : List Word}
    (h : ws'.map (resolve dict) = ws.map (resolve dict)) {out : Vector Byte 32} (hok : decodePhrase dict ws = .ok out) :
    decodePhrase dict ws' = .ok out := by
  rw [decodePhrase_eq_ok_iff] at hok ⊢
  rwa [h]

/-- Settles O44: neither change is seen by the resolver. -/
theorem decodeIgnoresCaseAndAbbreviation : Obligations.DecodeIgnoresCaseAndAbbreviation := by
  intro dict ws ws' out hws
  refine decodePhrase_ok_congr ?_
  induction hws with
  | nil => rfl
  | cons hw _ ih =>
    rw [List.map_cons, List.map_cons, ih]
    obtain hcase | ⟨-, rfl⟩ := hw
    · rw [resolve_congr hcase]
    · rw [resolve_take_four]

end Sys2Proof.Machine

/-! PROOF. PHASE and WIDX move along the edges of the transition table (R137, R188). -/

namespace Sys2Proof.Machine

@[simp] theorem State.endDecode_phase (s : State) : s.endDecode.phase = s.phase := by
  unfold State.endDecode
  split <;> rfl

@[simp] theorem State.endDecode_widx (s : State) : s.endDecode.widx = s.widx := by
  unfold State.endDecode
  split <;> rfl

/-- Of the host commands only CLR, and DECODE in IDLE, write `PHASE`. -/
theorem exec_command_phase {i : Instr} {s t : State} (hi : i.isCommand = true) (h : exec i s = .next t) :
    t.phase = if i = .clr then .idle else if i = .decode ∧ s.phase = .idle then .sCount else s.phase := by
  cases i with
  | nop => rw [exec_nop_inv h]; rfl
  | clr => rw [exec_clr_inv h]; rfl
  | putc c => obtain ⟨-, rfl⟩ | ⟨-, rfl⟩ := exec_putc_inv h <;> rfl
  | endw => obtain ⟨-, rfl⟩ | ⟨-, rfl⟩ := exec_endw_inv h <;> rfl
  | resolve l => obtain ⟨-, -, rfl⟩ | ⟨-, -, rfl⟩ | ⟨-, rfl⟩ := exec_resolve_inv h <;> rfl
  | decode => obtain ⟨hp, rfl⟩ | ⟨hp, rfl⟩ := exec_decode_inv h <;> simp [hp]
  | rdst => rw [exec_rdst_inv h]; rfl
  | rdout k => obtain ⟨-, rfl⟩ | ⟨-, rfl⟩ := exec_rdout_inv h <;> rfl
  | _ => cases hi

/-- Between commands the edge depends on the accepted command alone. -/
theorem State.edge_of_resting {s t : State} (hs : s.phase.resting = true)
    (h : t.phase = if s.accepts = some .clr then .idle
      else if s.accepts = some .decode ∧ s.phase = .idle then .sCount else s.phase) : s.Edge t := by
  cases hp : s.phase with
  | idle =>
    by_cases hc : s.accepts = some .clr <;> simp_all [State.Edge]
  | done | fail => simpa [State.Edge, hp] using h
  | _ => simp [hp, Phase.resting] at hs

theorem State.accepts_nil {s : State} (hc : s.cmds = []) : s.accepts = none := by
  simp [State.accepts, hc]

theorem State.accepts_ok {s : State} {w : CmdWord} {ws : List CmdWord} {i : Instr} (hc : s.cmds = w :: ws)
    (hd : decodeCommand w = .ok i) : s.accepts = some i := by
  simp [State.accepts, hc, hd, Except.toOption]

theorem State.accepts_error {s : State} {w : CmdWord} {ws : List CmdWord} {r : Reject} (hc : s.cmds = w :: ws)
    (hd : decodeCommand w = .error r) : s.accepts = none := by
  simp [State.accepts, hc, hd, Except.toOption]

/-- The micro-operation that `PHASE` selects takes an edge out of that phase. -/
theorem exec_micro_edge {i : Instr} {s t : State} (hi : s.microOp = some i) (h : exec i s = .next t) : s.Edge t := by
  have hp := State.microOp_cases hi
  cases i with
  | sCount =>
    obtain ⟨hc, rfl⟩ | ⟨hc, rfl⟩ := exec_sCount_inv h <;> simp_all [State.Edge]
  | sResolvew =>
    have hp : s.phase = .sResolvew := by simpa using hp
    obtain ⟨i, hi, hk, rfl⟩ | ⟨i, hi, hk, rfl⟩ | ⟨hi, rfl⟩ := exec_sResolvew_inv h
    · simp [State.Edge, hp, hi, hk]
    · simp [State.Edge, hp, hi, hk, nextSlot_val]
    · simp [State.Edge, hp, hi]
  | sCheck =>
    have hp : s.phase = .sCheck := by simpa using hp
    simp only [State.Edge, hp]
    obtain ⟨hc, rfl⟩ | ⟨hc, rfl⟩ := exec_sCheck_inv h
    · exact (if_pos hc).symm
    · exact (if_neg hc).symm
  | sLangsel | sPack | sSplit | sUnpack | sDup =>
    injection h with h; subst h
    simp_all [State.Edge]
  | _ => simp at hp

/-- Settles O48, case by case over what a step can do. -/
theorem phaseMovesAlongTheTable : Obligations.PhaseMovesAlongTheTable := by
  intro s t h
  obtain ⟨hr, rfl⟩ | ⟨hr, i, u, hm, hu, rfl⟩ | ⟨hr, hq, hc, rfl⟩ | ⟨hr, hq, w, ws, i, hc, hd, hu⟩ |
    ⟨hr, hq, w, ws, r, hc, hd, rfl⟩ := step_inv h
  · simp [hr]
  · have hedge : s.Edge u := exec_micro_edge (s := s.takeSample) hm hu
    simpa [hr, State.Edge] using hedge
  · simp only [hr]
    exact State.edge_of_resting hq (by simp [State.accepts_nil hc])
  · have hphase := exec_command_phase (decodeCommand_ok hd).1 hu
    simp only [hr]
    refine State.edge_of_resting hq ?_
    rw [State.accepts_ok hc hd, hphase]
    exact if_congr (by simp) rfl (if_congr (by simp) rfl rfl)
  · simp only [hr]
    exact State.edge_of_resting hq (by simp [State.accepts_error hc hd])

end Sys2Proof.Machine

/-! PROOF. Every DECODE ends, in the state its registers determine: each micro-operation comes nearer to the end and
keeps the verdict the DECODE is heading for (R136, R137, R211). -/

namespace Sys2Proof.Machine

/-! ### The verdict of a DECODE under way -/

/-- How a DECODE ends: with an output, or with a kind and a position. -/
abbrev Verdict := Except (ErrKind × Fin 12) (Vector Byte 32)

/-- The first phrase slot from `k` on that does not resolve. -/
def State.firstUnknown (s : State) (k : Fin 12) : Option (Fin 12) :=
  Fin.find? fun j => decide (k ≤ j) && (s.slotIndex j).isNone

/-- `IDX` when every slot from `k` on has been resolved. -/
def State.indicesFrom (s : State) (k : Fin 12) : Vector Index 12 :=
  Vector.ofFn fun j => if j < k then s.idx[j.val] else (s.slotIndex j).getD 0

/-- What S_CHECK and the steps after it make of a stream. -/
def streamVerdict (b : BitVec 132) : Verdict :=
  if chkOf b = 0 then .ok (duplicate (unpack16 (entOf b))) else .error (.checksum, 0)

/-- What is to come when the next slot to resolve is `k`. -/
def State.slotsVerdict (s : State) (k : Fin 12) : Verdict :=
  (s.firstUnknown k).elim (streamVerdict (pack (s.indicesFrom k))) fun p => .error (.unknownWord, p)

/-- What the DECODE under way will end with; between commands, where none is, a value nobody asks for. -/
def State.verdict (s : State) : Verdict :=
  match s.phase with
  | .sCount => if s.wcnt.val = 12 then s.slotsVerdict 0 else .error (.wordCount, 0)
  | .sLangsel => s.slotsVerdict 0
  | .sResolvew => s.slotsVerdict s.widx
  | .sPack => streamVerdict (pack s.idx)
  | .sSplit | .sCheck => streamVerdict s.bits
  | .sUnpack => .ok (duplicate (unpack16 (entOf s.bits)))
  | .sDup => .ok (duplicate s.eb)
  | .idle | .done | .fail => .ok s.out

/-- The end of a DECODE with a verdict: S_FINISH or S_FAIL, and the response. -/
def State.conclude (s : State) : Verdict → State
  | .ok out => ({ s with out := out } : State).finish.respond 0
  | .error (kind, pos) => (s.raise kind pos).respond 0

/-- The state in which the DECODE under way ends. -/
def State.ended (s : State) : State := s.conclude s.verdict

/-- How many micro-operations the DECODE under way can still take. -/
def State.stepsLeft (s : State) : Nat :=
  match s.phase with
  | .sCount => 19
  | .sLangsel => 18
  | .sResolvew => 17 - s.widx.val
  | .sPack => 5
  | .sSplit => 4
  | .sCheck => 3
  | .sUnpack => 2
  | .sDup => 1
  | .idle | .done | .fail => 0

theorem State.stepsLeft_le (s : State) : s.stepsLeft ≤ 19 := by
  cases hp : s.phase with
  | sResolvew => simp only [State.stepsLeft, hp]; omega
  | _ => simp [State.stepsLeft, hp]

/-! ### Resolving a slot keeps the verdict -/

theorem State.firstUnknown_of_unknown {s : State} {k : Fin 12} (hk : s.slotIndex k = none) :
    s.firstUnknown k = some k :=
  Fin.find?_eq_some_iff.mpr ⟨by simp [hk], fun j hj => by simp [hj]⟩

theorem State.firstUnknown_next {s : State} {k : Fin 12} {i : Index} (hi : s.slotIndex k = some i) (hk : k.val < 11) :
    s.firstUnknown (nextSlot k) = s.firstUnknown k := by
  refine congrArg Fin.find? (funext fun j => ?_)
  have hnext := nextSlot_val hk
  by_cases hj : j = k
  · simp [hj, hi]
  · have hle : nextSlot k ≤ j ↔ k ≤ j := by omega
    simp only [hle]

theorem State.firstUnknown_last {s : State} {k : Fin 12} {i : Index} (hi : s.slotIndex k = some i) (hk : k.val = 11) :
    s.firstUnknown k = none := by
  refine Fin.find?_eq_none_iff.mpr fun j => ?_
  by_cases hj : j = k
  · simp [hj, hi]
  · have hlt : ¬ k ≤ j := by omega
    simp [hlt]

theorem State.indicesFrom_get (s : State) (k j : Fin 12) :
    (s.indicesFrom k)[j.val] = if j < k then s.idx[j.val] else (s.slotIndex j).getD 0 := by
  simp [State.indicesFrom]

/-- With the index of slot `k` recorded, that slot is one of those done. -/
theorem State.indicesFrom_recorded {s : State} {k : Fin 12} {i : Index} (hi : s.slotIndex k = some i) (j : Fin 12) :
    (s.indicesFrom k)[j.val] = if j ≤ k then (s.idx.set k.val i)[j.val] else (s.slotIndex j).getD 0 := by
  rw [State.indicesFrom_get]
  obtain hlt | rfl | hgt := lt_trichotomy j k
  · rw [if_pos hlt, if_pos hlt.le, Vector.getElem_set_ne _ _ (by omega)]
  · simp [hi]
  · rw [if_neg hgt.not_gt, if_neg hgt.not_ge]

theorem State.slotsVerdict_unknown {s : State} {k : Fin 12} (hk : s.slotIndex k = none) :
    s.slotsVerdict k = .error (.unknownWord, k) := by
  rw [State.slotsVerdict, State.firstUnknown_of_unknown hk, Option.elim_some]

theorem State.slotsVerdict_next {s : State} {k : Fin 12} {i : Index} (hi : s.slotIndex k = some i) (hk : k.val < 11) :
    ({ s with idx := s.idx.set k.val i, widx := nextSlot k } : State).slotsVerdict (nextSlot k) = s.slotsVerdict k := by
  have hnext := nextSlot_val hk
  have hidx : ({ s with idx := s.idx.set k.val i, widx := nextSlot k } : State).indicesFrom (nextSlot k) =
      s.indicesFrom k := by
    refine Vector.ext fun j hj => ?_
    have hle : (⟨j, hj⟩ : Fin 12) < nextSlot k ↔ (⟨j, hj⟩ : Fin 12) ≤ k := by
      simp only [Fin.lt_def, Fin.le_def]
      omega
    refine (State.indicesFrom_get _ (nextSlot k) ⟨j, hj⟩).trans ?_
    refine .trans ?_ (State.indicesFrom_recorded hi ⟨j, hj⟩).symm
    simp only [hle]
    rfl
  rw [State.slotsVerdict, State.slotsVerdict, hidx, ← State.firstUnknown_next hi hk]
  rfl

theorem State.slotsVerdict_last {s : State} {k : Fin 12} {i : Index} (hi : s.slotIndex k = some i) (hk : k.val = 11) :
    s.slotsVerdict k = streamVerdict (pack (s.idx.set k.val i)) := by
  have hidx : s.indicesFrom k = s.idx.set k.val i := by
    refine Vector.ext fun j hj => ?_
    have hle : (⟨j, hj⟩ : Fin 12) ≤ k := by
      simp only [Fin.le_def]
      omega
    exact (State.indicesFrom_recorded hi ⟨j, hj⟩).trans (if_pos hle)
  rw [State.slotsVerdict, State.firstUnknown_last hi hk, Option.elim_none, hidx]

/-! ### One micro-operation -/

/-- Inside DECODE, on the way to the same end, with fewer micro-operations left. -/
structure Nearer (s t : State) : Prop where
  busy : t.phase.resting = false
  rst : t.rst = []
  stepsLeft : t.stepsLeft < s.stepsLeft
  ended : t.ended = s.ended

/-- What a DECODE leaves does not depend on the transients or the phase it comes from. -/
theorem State.conclude_transients (s : State) (idx : Vector Index 12) (bits : BitVec 132) (eb : Vector Byte 16)
    (widx : Fin 12) (p : Phase) (v : Verdict) :
    ({ s with idx := idx, bits := bits, eb := eb, widx := widx, phase := p } : State).conclude v = s.conclude v := by
  cases v <;> rfl

theorem Nearer.of_verdict {s : State} (hr : s.rst = []) {idx : Vector Index 12} {bits : BitVec 132}
    {eb : Vector Byte 16} {widx : Fin 12} {p : Phase} (hp : p.resting = false)
    (hleft : ({ s with idx := idx, bits := bits, eb := eb, widx := widx, phase := p } : State).stepsLeft < s.stepsLeft)
    (hv : ({ s with idx := idx, bits := bits, eb := eb, widx := widx, phase := p } : State).verdict = s.verdict) :
    Nearer s { s with idx := idx, bits := bits, eb := eb, widx := widx, phase := p } :=
  ⟨hp, hr, hleft, by rw [State.ended, hv, State.conclude_transients, State.ended]⟩

theorem State.conclude_eq_ended {s : State} {v : Verdict} (hv : s.verdict = v) : s.conclude v = s.ended := by
  rw [State.ended, hv]

/-- A micro-operation that ends the DECODE leaves the ending state, the response included; any other comes nearer. -/
theorem exec_micro_progress {s : State} (hr : s.rst = []) {i : Instr} (hi : s.microOp = some i) :
    ∃ t, exec i s = .next t ∧ (Nearer s t ∨ t.phase.resting = true ∧ t.respond 0 = s.ended) := by
  obtain ⟨t, ht⟩ := exec_next i s
  refine ⟨t, ht, ?_⟩
  have hp := State.microOp_cases hi
  cases i with
  | sCount =>
    have hp : s.phase = .sCount := by simpa using hp
    obtain ⟨hc, rfl⟩ | ⟨hc, rfl⟩ := exec_sCount_inv ht
    · exact .inl (.of_verdict hr rfl (by simp [State.stepsLeft, hp]) (by simp only [State.verdict, hp, if_pos hc]; rfl))
    · exact .inr ⟨rfl, State.conclude_eq_ended (v := .error (.wordCount, 0)) (by simp [State.verdict, hp, hc])⟩
  | sLangsel =>
    have hp : s.phase = .sLangsel := by simpa using hp
    injection ht with ht; subst ht
    exact .inl (.of_verdict hr rfl (by simp [State.stepsLeft, hp]) (by simp only [State.verdict, hp]; rfl))
  | sResolvew =>
    have hp : s.phase = .sResolvew := by simpa using hp
    obtain ⟨i, hi, hk, rfl⟩ | ⟨i, hi, hk, rfl⟩ | ⟨hi, rfl⟩ := exec_sResolvew_inv ht
    · exact .inl (.of_verdict hr rfl (by simp only [State.stepsLeft, hp]; omega)
        (by simp [State.verdict, hp, State.slotsVerdict_last hi hk]))
    · exact .inl (.of_verdict hr (by rw [hp]; rfl) (by simp only [State.stepsLeft, hp, nextSlot_val hk]; omega)
        (by simp only [State.verdict, hp]; exact State.slotsVerdict_next hi hk))
    · exact .inr ⟨rfl, State.conclude_eq_ended (v := .error (.unknownWord, s.widx))
        (by simp only [State.verdict, hp, State.slotsVerdict_unknown hi])⟩
  | sCheck =>
    have hp : s.phase = .sCheck := by simpa using hp
    obtain ⟨hc, rfl⟩ | ⟨hc, rfl⟩ := exec_sCheck_inv ht
    · exact .inl (.of_verdict hr rfl (by simp [State.stepsLeft, hp]) (by simp [State.verdict, hp, streamVerdict, hc]))
    · exact .inr ⟨rfl, State.conclude_eq_ended (v := .error (.checksum, 0))
        (by simp only [State.verdict, hp, streamVerdict, if_neg hc])⟩
  | sPack | sSplit | sUnpack =>
    simp only [reduceCtorEq, and_false, and_true, false_or, or_false] at hp
    injection ht with ht; subst ht
    exact .inl (.of_verdict hr rfl (by simp [State.stepsLeft, hp]) (by simp [State.verdict, hp]))
  | sDup =>
    have hp : s.phase = .sDup := by simpa using hp
    injection ht with ht; subst ht
    exact .inr ⟨rfl, State.conclude_eq_ended (v := .ok (duplicate s.eb)) (by simp only [State.verdict, hp])⟩
  | _ => simp at hp

/-! ### The run to the end -/

theorem State.stepsLeft_pos {s : State} (hs : s.phase.resting = false) : 0 < s.stepsLeft := by
  cases hp : s.phase with
  | idle | done | fail => simp [hp, Phase.resting] at hs
  | sResolvew => simp only [State.stepsLeft, hp]; omega
  | _ => simp [State.stepsLeft, hp]

theorem step_busy {s : State} (hr : s.rst = []) (hs : s.phase.resting = false) :
    ∃ t, step s = .next t ∧ (Nearer s t ∨ t = s.ended) := by
  cases hm : s.microOp with
  | none => simp [State.microOp_none hm] at hs
  | some i =>
    rw [step_noReset hr, State.advance_micro hm]
    obtain ⟨t, ht, hnear | ⟨hq, hend⟩⟩ := exec_micro_progress hr hm
    · exact ⟨t, by rw [runMicro_next ht, State.endDecode_busy hnear.busy], .inl hnear⟩
    · exact ⟨s.ended, by rw [runMicro_next ht, State.endDecode_resting hq, hend], .inr rfl⟩

/-- A DECODE under way ends, each step on the way coming nearer. -/
theorem runs_ended {s : State} (hr : s.rst = []) (hs : s.phase.resting = false) :
    ∃ n, n ≤ s.stepsLeft ∧ Runs n s s.ended := by
  induction hn : s.stepsLeft using Nat.strong_induction_on generalizing s with
  | _ left ih =>
    obtain ⟨t, ht, hnear | rfl⟩ := step_busy hr hs
    · obtain ⟨n, hle, hrun⟩ := ih _ (hn ▸ hnear.stepsLeft) hnear.rst hnear.busy rfl
      have hless := hnear.stepsLeft
      exact ⟨n + 1, by omega, .cons ht (hnear.ended ▸ hrun)⟩
    · have hpos := State.stepsLeft_pos hs
      exact ⟨1, by omega, .cons ht (.refl _)⟩

/-! ### What a DECODE leaves -/

@[simp] theorem State.conclude_wbuf (s : State) (v : Verdict) : (s.conclude v).wbuf = s.wbuf := by cases v <;> rfl
@[simp] theorem State.conclude_wcnt (s : State) (v : Verdict) : (s.conclude v).wcnt = s.wcnt := by cases v <;> rfl
@[simp] theorem State.conclude_cmderr (s : State) (v : Verdict) : (s.conclude v).cmderr = s.cmderr := by cases v <;> rfl
@[simp] theorem State.conclude_dict (s : State) (v : Verdict) : (s.conclude v).dict = s.dict := by cases v <;> rfl
@[simp] theorem State.conclude_cmds (s : State) (v : Verdict) : (s.conclude v).cmds = s.cmds := by cases v <;> rfl
@[simp] theorem State.conclude_rsps (s : State) (v : Verdict) : (s.conclude v).rsps = s.rsps ++ [0x0000] := by
  cases v <;> rfl
@[simp] theorem State.conclude_ph (s : State) (v : Verdict) :
    (s.conclude v).ph = Vector.replicate 12 Key.empty := by
  cases v <;> rfl

theorem State.conclude_transientsZero (s : State) (v : Verdict) : (s.conclude v).TransientsZero := by
  cases v <;> exact ⟨rfl, rfl, rfl, rfl⟩

/-- DONE without an error, or FAIL with one and no output. -/
theorem State.conclude_outcome (s : State) (v : Verdict) :
    ((s.conclude v).phase = .done ∧ (s.conclude v).err = none ∧ (s.conclude v).errpos = 0) ∨
      ((s.conclude v).phase = .fail ∧ (s.conclude v).err ≠ none ∧ (s.conclude v).out = Vector.replicate 32 0) := by
  cases v with
  | ok out => exact .inl ⟨rfl, rfl, rfl⟩
  | error e => exact .inr ⟨rfl, nofun, rfl⟩

/-- Settles O49. -/
theorem everyDecodeEnds : Obligations.EveryDecodeEnds := by
  intro s hs hr
  obtain ⟨n, hn, hrun⟩ := runs_ended hr hs
  exact ⟨n, s.ended, hn.trans s.stepsLeft_le, hrun, (s.conclude_outcome _).imp And.left And.left, s.conclude_rsps _,
    s.conclude_cmds _⟩

/-! ### The DECODE command as a whole (R136) -/

/-- The state after DECODE has been accepted. -/
def State.startDecode (s : State) (ws : List CmdWord) : State :=
  { s with wbuf := Key.empty, phase := .sCount, cmds := ws }

theorem step_decode {s : State} {ws : List CmdWord} (hp : s.phase = .idle) (hr : s.rst = [])
    (hc : s.cmds = 0x5000 :: ws) : step s = .next (s.startDecode ws) := by
  have hd : decodeCommand 0x5000 = .ok .decode := rfl
  rw [step_noReset hr, State.advance_resting (by rw [hp]; rfl), State.accept_ok hc hd]
  exact exec_decode_idle (s := { s with cmds := ws }) hp

theorem runs_decode {s : State} {ws : List CmdWord} (hp : s.phase = .idle) (hr : s.rst = [])
    (hc : s.cmds = 0x5000 :: ws) : ∃ n, n ≤ 20 ∧ Runs n s (s.startDecode ws).ended := by
  obtain ⟨n, hn, hrun⟩ := runs_ended (s := s.startDecode ws) hr rfl
  exact ⟨n + 1, Nat.succ_le_succ (hn.trans (State.stepsLeft_le _)), .cons (step_decode hp hr hc) hrun⟩

/-- Settles O50. -/
theorem decodeCommandRunsToItsEnd : Obligations.DecodeCommandRunsToItsEnd := by
  intro s ws hp hr hc
  obtain ⟨n, hn, hrun⟩ := runs_decode hp hr hc
  refine ⟨n, _, hn, hrun, State.conclude_rsps .., State.conclude_cmds .., State.conclude_wcnt ..,
    State.conclude_cmderr .., State.conclude_dict .., State.conclude_wbuf .., State.conclude_ph ..,
    State.conclude_transientsZero .., State.conclude_outcome ..⟩

end Sys2Proof.Machine

/-! PROOF. A phrase sent word by word and then DECODE leave what the function `decode` gives: first the word entry, as a
fold over the command words, then the verdict of the phrase buffer it leaves (R148, R163, R164). -/

namespace Sys2Proof.Machine

/-! ### Word entry on its three registers (R163, R164) -/

theorem key_append_singleton (c : Byte) : ∀ w : Word, key (w ++ [c]) = (key w).put c
  | [] | [_] | [_, _] | [_, _, _] => rfl
  | _ :: _ :: _ :: _ :: w => by simp [key, Key.put]

/-- PUTC byte by byte leaves the key of the word. -/
theorem foldl_put_empty (w : Word) : w.foldl Key.put Key.empty = key w := by
  induction w using List.reverseRecOn with
  | nil => rfl
  | append_singleton w c ih => rw [List.foldl_append, ih, key_append_singleton, List.foldl_cons, List.foldl_nil]

theorem Key.eq_empty_of_len {k : Key} (hlen : k.len = 0) (hk : k.WF) : k = Key.empty := by
  obtain ⟨len, ch⟩ := k
  obtain rfl : len = 0 := hlen
  refine congrArg (Key.mk 0) (Vector.ext fun j hj => ?_)
  simpa using hk ⟨j, hj⟩ (Nat.zero_le j)

/-- The registers word entry writes. -/
structure EntryRegs where
  wbuf : Key
  ph : Vector Key 12
  wcnt : Fin 14

def State.entryRegs (s : State) : EntryRegs := ⟨s.wbuf, s.ph, s.wcnt⟩

/-- `s` with entry registers `e`, the words `ws` left at the port and the responses `vs` added. -/
def State.entered (s : State) (e : EntryRegs) (ws : List CmdWord) (vs : List RspWord) : State :=
  { s with wbuf := e.wbuf, ph := e.ph, wcnt := e.wcnt, cmds := ws, rsps := s.rsps ++ vs }

theorem State.entered_entered (s : State) (e e' : EntryRegs) (ws ws' : List CmdWord) (vs vs' : List RspWord) :
    (s.entered e ws vs).entered e' ws' vs' = s.entered e' ws' (vs ++ vs') := by
  simp [State.entered]

theorem State.entered_self (s : State) : s.entered s.entryRegs s.cmds [] = s := by
  simp [State.entered, State.entryRegs]

def EntryRegs.put (e : EntryRegs) (c : Byte) : EntryRegs := { e with wbuf := e.wbuf.put c }

def EntryRegs.commit (e : EntryRegs) : EntryRegs := ⟨Key.empty, commitSlot e.ph e.wcnt e.wbuf, satSucc e.wcnt⟩

/-- What a command word of a phrase being sent does to the entry registers. -/
def EntryRegs.take (e : EntryRegs) (w : CmdWord) : EntryRegs :=
  match decodeCommand w with
  | .ok (.putc c) => e.put c
  | .ok .endw => e.commit
  | _ => e

theorem EntryRegs.take_putc (e : EntryRegs) (c : Byte) : e.take (0x20#8 ++ c) = e.put c := by
  rw [EntryRegs.take, decodeCommand_putcWord]

/-- The command words of a phrase being sent: NOP, RDST, ENDW and PUTC. -/
def IsEntryWord (w : CmdWord) : Prop := w = 0x0000 ∨ w = 0x6000 ∨ w = 0x3000 ∨ ∃ c : Byte, w = 0x20#8 ++ c

theorem exec_putc_idle (c : Byte) {s : State} (hp : s.phase = .idle) :
    exec (.putc c) s = .next ((s.putByte c).respond 0) :=
  State.gate_allowed (decide_eq_true hp) fun s => (s.putByte c).respond 0

theorem exec_endw_idle {s : State} (hp : s.phase = .idle) : exec .endw s = .next (s.commitWord.respond 0) :=
  State.gate_allowed (decide_eq_true hp) fun s => s.commitWord.respond 0

theorem step_entryWord {s : State} {w : CmdWord} {ws : List CmdWord} (hw : IsEntryWord w) (hp : s.phase = .idle)
    (hr : s.rst = []) (hc : s.cmds = w :: ws) :
    ∃ v, step s = .next (s.entered (s.entryRegs.take w) ws [v]) := by
  rw [step_noReset hr, State.advance_resting (by rw [hp]; rfl)]
  obtain rfl | rfl | rfl | ⟨c, rfl⟩ := hw
  · exact ⟨_, State.accept_ok (i := .nop) hc rfl⟩
  · exact ⟨_, State.accept_ok (i := .rdst) hc rfl⟩
  · exact ⟨_, (State.accept_ok (i := .endw) hc rfl).trans (exec_endw_idle (s := { s with cmds := ws }) hp)⟩
  · rw [State.accept_ok hc (decodeCommand_putcWord c), EntryRegs.take_putc]
    exact ⟨_, exec_putc_idle c (s := { s with cmds := ws }) hp⟩

/-- The words of a phrase are answered one by one and write the entry registers alone. -/
theorem runs_entryWords {pre rest : List CmdWord} (hpre : ∀ w ∈ pre, IsEntryWord w) {s : State} (hp : s.phase = .idle)
    (hr : s.rst = []) (hc : s.cmds = pre ++ rest) : ∃ vs : List RspWord, vs.length = pre.length ∧
      Runs pre.length s (s.entered (pre.foldl EntryRegs.take s.entryRegs) rest vs) := by
  induction pre generalizing s with
  | nil =>
    obtain rfl : s.cmds = rest := hc
    exact ⟨[], rfl, by rw [List.foldl_nil, s.entered_self]; exact .refl s⟩
  | cons w pre ih =>
    obtain ⟨hw, hpre⟩ := List.forall_mem_cons.mp hpre
    obtain ⟨v, hstep⟩ := step_entryWord hw hp hr hc
    obtain ⟨vs, hlen, hrun⟩ := ih hpre (s := s.entered (s.entryRegs.take w) (pre ++ rest) [v]) hp hr rfl
    rw [State.entered_entered] at hrun
    exact ⟨v :: vs, congrArg (· + 1) hlen, .cons hstep hrun⟩

/-! ### Which words a phrase is sent by (R90) -/

theorem putWords_eq_putcWords (w : Word) : putWords w = w.map fun c => 0x20#8 ++ c := List.map_eq_flatMap.symm

theorem asmWord_eq_append (w : Word) : asmWord w = (w.map fun c => 0x20#8 ++ c) ++ [0x3000] := by
  rw [asmWord, putWords_eq_putcWords]
  rfl

theorem isEntryWord_of_mem_asmPhrase {ws : List Word} {w : CmdWord} (h : w ∈ asmPhrase ws) : IsEntryWord w := by
  obtain ⟨u, -, hu⟩ := List.mem_flatMap.mp h
  rw [asmWord_eq_append, List.mem_append, List.mem_map, List.mem_singleton] at hu
  obtain ⟨c, -, rfl⟩ | rfl := hu
  · exact .inr (.inr (.inr ⟨c, rfl⟩))
  · exact .inr (.inr (.inl rfl))

/-- NOP and RDST between the words of a phrase. -/
theorem isEntryWord_of_filter {pre : List CmdWord} {ws : List Word}
    (h : pre.filter (fun w => w ≠ 0x0000 ∧ w ≠ 0x6000) = asmPhrase ws) : ∀ w ∈ pre, IsEntryWord w := by
  intro w hw
  by_cases h0 : w = 0x0000
  · exact .inl h0
  by_cases h6 : w = 0x6000
  · exact .inr (.inl h6)
  refine isEntryWord_of_mem_asmPhrase (ws := ws) ?_
  rw [← h]
  exact List.mem_filter.mpr ⟨hw, decide_eq_true ⟨h0, h6⟩⟩

theorem foldl_take_filter (pre : List CmdWord) (e : EntryRegs) :
    (pre.filter (fun w => w ≠ 0x0000 ∧ w ≠ 0x6000)).foldl EntryRegs.take e = pre.foldl EntryRegs.take e := by
  rw [List.foldl_filter]
  refine congrArg (fun f => pre.foldl f e) (funext fun e => funext fun w => ?_)
  by_cases h0 : w = 0x0000
  · subst h0; rfl
  by_cases h6 : w = 0x6000
  · subst h6; rfl
  exact if_pos (decide_eq_true ⟨h0, h6⟩)

/-! ### What a phrase leaves in the entry registers -/

theorem asmPhrase_append_singleton (ws : List Word) (w : Word) : asmPhrase (ws ++ [w]) = asmPhrase ws ++ asmWord w := by
  simp [asmPhrase]

theorem foldl_take_putcWords (w : Word) (e : EntryRegs) :
    (w.map fun c => 0x20#8 ++ c).foldl EntryRegs.take e = { e with wbuf := w.foldl Key.put e.wbuf } := by
  induction w generalizing e with
  | nil => rfl
  | cons c w ih => rw [List.map_cons, List.foldl_cons, EntryRegs.take_putc, ih]; rfl

theorem foldl_take_asmWord {e : EntryRegs} (he : e.wbuf = Key.empty) (w : Word) :
    (asmWord w).foldl EntryRegs.take e = ({ e with wbuf := key w } : EntryRegs).commit := by
  rw [asmWord_eq_append, List.foldl_append, foldl_take_putcWords, he, foldl_put_empty]
  rfl

/-- The entry registers after the words `ws`: the counter saturated at 13, and the keys of the words that had a slot. -/
structure EntryRegs.Holds (e : EntryRegs) (ws : List Word) : Prop where
  wbuf : e.wbuf = Key.empty
  wcnt : e.wcnt.val = min ws.length 13
  ph : ∀ (k : Fin 12) (w : Word), ws[k.val]? = some w → e.ph[k.val] = key w

theorem EntryRegs.Holds.commit {e : EntryRegs} {ws : List Word} (h : e.Holds ws) (w : Word) :
    ({ e with wbuf := key w } : EntryRegs).commit.Holds (ws ++ [w]) where
  wbuf := rfl
  wcnt := by
    have hcnt := h.wcnt
    simp only [EntryRegs.commit, satSucc_val, List.length_append, List.length_singleton]
    omega
  ph k v hv := by
    have hcnt := h.wcnt
    show (commitSlot e.ph e.wcnt (key w))[k.val] = key v
    obtain hlt | heq := (Nat.lt_succ_iff_lt_or_eq (m := k.val) (n := ws.length)).mp (by
      simpa using (List.getElem?_eq_some_iff.mp hv).1)
    · have hold := h.ph k v (by rwa [List.getElem?_append_left hlt] at hv)
      by_cases hn : e.wcnt.val < 12
      · rw [commitSlot_stores hn, Vector.getElem_set_ne _ _ (by omega), hold]
      · rw [commitSlot_full hn, hold]
    · obtain rfl : w = v := by simpa [heq] using hv
      have hn : e.wcnt.val = k.val := by omega
      rw [commitSlot_stores (by omega)]
      simp [hn]

theorem EntryRegs.Holds.foldl_asmPhrase {e : EntryRegs} (h : e.Holds []) (ws : List Word) :
    ((asmPhrase ws).foldl EntryRegs.take e).Holds ws := by
  induction ws using List.reverseRecOn with
  | nil => exact h
  | append_singleton ws w ih =>
    rw [asmPhrase_append_singleton, List.foldl_append, foldl_take_asmWord ih.wbuf]
    exact ih.commit w

/-! ### The verdict of a phrase buffer is `decode` of the phrase (R148) -/

/-- The slots hold the keys of twelve words, so they resolve as the words do. -/
theorem map_resolve_eq_indicesFrom {s : State} {ws : List Word} (hlen : ws.length = 12)
    (hslot : ∀ (k : Fin 12) (w : Word), ws[k.val]? = some w → s.slotIndex k = resolve s.dict w)
    (hall : s.firstUnknown 0 = none) : ws.map (resolve s.dict) = (s.indicesFrom 0).toList.map some := by
  refine List.ext_getElem (by simp [hlen]) fun k hk _ => ?_
  have hk12 : k < 12 := by simpa [hlen] using hk
  have hk' : s.slotIndex ⟨k, hk12⟩ = resolve s.dict ws[k] := hslot ⟨k, hk12⟩ _ (List.getElem?_eq_getElem (by omega))
  have hsome := Fin.find?_eq_none_iff.mp hall ⟨k, hk12⟩
  obtain ⟨i, hi⟩ : ∃ i, s.slotIndex ⟨k, hk12⟩ = some i := Option.isSome_iff_exists.mp (by simpa using hsome)
  have hget : (s.indicesFrom 0)[k] = i := (s.indicesFrom_get 0 ⟨k, hk12⟩).trans (by simp [hi])
  rw [List.getElem_map, List.getElem_map, ← hk', hi, Vector.getElem_toList, hget]

/-- At S_COUNT, with the phrase counted and stored, the DECODE ends as the function says. -/
theorem State.ended_shows {s : State} {ws : List Word} (hp : s.phase = .sCount) (hcnt : s.wcnt.val = min ws.length 13)
    (hph : ∀ (k : Fin 12) (w : Word), ws[k.val]? = some w → s.ph[k.val] = key w) :
    s.ended.Shows ws (decodePhrase s.dict ws) := by
  have hslot : ∀ (k : Fin 12) (w : Word), ws[k.val]? = some w → s.slotIndex k = resolve s.dict w :=
    fun k w hw => State.slotIndex_of_key (hph k w hw)
  rw [State.ended]
  by_cases hlen : ws.length = 12
  · have hv : s.verdict = s.slotsVerdict 0 := by
      simp only [State.verdict, hp]
      exact if_pos (by omega)
    rw [hv, State.slotsVerdict]
    cases hfirst : s.firstUnknown 0 with
    | some p =>
      obtain ⟨hunknown, hbefore⟩ := Fin.find?_eq_some_iff.mp hfirst
      have hget : ws[p.val]? = some ws[p.val] := List.getElem?_eq_getElem (by omega)
      rw [decodePhrase_unknown hlen hget]
      · exact ⟨rfl, rfl, rfl, hget, rfl⟩
      · rw [← hslot p _ hget]
        simpa using hunknown
      · intro j v hj hjv
        rw [← hslot ⟨j, by omega⟩ v hjv]
        exact Option.isSome_iff_ne_none.mp (by simpa using hbefore ⟨j, by omega⟩ hj)
    | none =>
      rw [decodePhrase_resolved (map_resolve_eq_indicesFrom hlen hslot hfirst), Option.elim_none, streamVerdict]
      split
      · exact ⟨rfl, rfl, rfl, rfl⟩
      · exact ⟨rfl, rfl, rfl, rfl⟩
  · have hv : s.verdict = .error (.wordCount, 0) := by
      simp only [State.verdict, hp]
      exact if_neg (by omega)
    rw [hv, decodePhrase_wordCount hlen]
    exact ⟨rfl, rfl, rfl, rfl⟩

/-- Settles O51: the words of the phrase leave its keys in the phrase buffer, and DECODE ends as they determine. -/
theorem decodeCommandComputesDecode : Obligations.DecodeCommandComputesDecode := by
  intro s ws pre hinv hp hcnt hlen hr hc hpre
  obtain ⟨vs, hvs, hentry⟩ := runs_entryWords (isEntryWord_of_filter hpre) hp hr hc
  have hholds : (pre.foldl EntryRegs.take s.entryRegs).Holds ws := by
    have hstart : s.entryRegs.Holds [] := ⟨Key.eq_empty_of_len hlen hinv.wbufWF, congrArg Fin.val hcnt, by simp⟩
    rw [← foldl_take_filter, hpre]
    exact hstart.foldl_asmPhrase ws
  generalize pre.foldl EntryRegs.take s.entryRegs = e at hentry hholds
  obtain ⟨n, hn, hrun⟩ := runs_decode hp hr (ws := []) rfl
    (s := s.entered e [0x5000] vs)
  refine ⟨pre.length + n, _, Nat.add_le_add_left hn _, hentry.append hrun,
    State.ended_shows rfl hholds.wcnt hholds.ph, ?_, State.conclude_cmderr .., State.conclude_wbuf ..,
    State.conclude_ph .., State.conclude_transientsZero .., State.conclude_dict .., State.conclude_cmds .., ?_⟩
  · exact (congrArg Fin.val (State.conclude_wcnt ..)).trans hholds.wcnt
  · rw [State.ended, State.conclude_rsps]
    simp [State.startDecode, State.entered, hvs, Nat.add_assoc]

end Sys2Proof.Machine

/-! PROOF. The host commands: a step runs the command at the port, what NOP, CLR, PUTC, ENDW, RDST and RDOUT do, and the
table of the phases in which a command executes (R88, R160 to R167). -/

namespace Sys2Proof.Machine

/-! ### The step that takes a command (R160, R88) -/

/-- Settles O6. -/
theorem stepRunsTheDecodedCommand : Obligations.StepRunsTheDecodedCommand := by
  intro s w ws i hr hq hc hd
  rw [step_run hr, State.advance_resting (s := s.takeSample) hq, State.accept_ok (s := s.takeSample) hc hd]
  rfl

/-! ### NOP and CLR (R161, R162) -/

/-- Settles O11. -/
theorem nopOnlyResponds : Obligations.NopOnlyResponds :=
  ⟨rfl, fun _ => rfl, fun _ hlo hhi => refusedIllegal_of_block (q := 0) hlo (Nat.lt_succ_of_le hhi)⟩

/-- Settles O12. -/
theorem clrRestoresEveryRegisterButCmderr : Obligations.ClrRestoresEveryRegisterButCmderr :=
  ⟨rfl, fun _ => rfl, rfl, fun _ hlo hhi => refusedIllegal_of_block (q := 1) hlo (Nat.lt_succ_of_le hhi)⟩

/-! ### PUTC (R163) -/

theorem exec_putc_elsewhere (c : Byte) {s : State} (hp : s.phase ≠ .idle) :
    exec (.putc c) s = .next (refusedState s 0x8002) :=
  State.gate_refused (decide_eq_false hp) fun s => (s.putByte c).respond 0

/-- The operand bits of PUTC's word stand below its opcode, so `|` is concatenation. -/
theorem decodeCommand_putc_or (c : Byte) : decodeCommand (0x2000 ||| c.setWidth 16) = .ok (.putc c) :=
  (congrArg decodeCommand (BitVec.append_def 0x20#8 c).symm).trans (decodeCommand_putcWord c)

theorem State.putByte_short {s : State} (h : s.wbuf.len.val < 4) (c : Byte) : s.putByte c =
    { s with wbuf := ⟨⟨s.wbuf.len.val + 1, by omega⟩, s.wbuf.ch.set s.wbuf.len.val c h⟩ } := by
  rw [State.putByte, Key.put_short h]

theorem State.putByte_full {s : State} (h : s.wbuf.len = 4) (c : Byte) : s.putByte c = s := by
  rw [State.putByte, Key.put_full (by rw [h]; decide)]

/-- Settles O13: in IDLE a byte is put or dropped by the length of the word, and byte by byte a word leaves its key. -/
theorem putcAppendsACharacter : Obligations.PutcAppendsACharacter := by
  refine ⟨decodeCommand_putc_or, fun s c hp h => ?_, fun s c hp h => ?_, fun s c => exec_putc_elsewhere c,
    foldl_put_empty, fun w hlo hhi => refusedIllegal_of_block (q := 2) hlo (Nat.lt_succ_of_le hhi)⟩
  · rw [exec_putc_idle c hp, State.putByte_short h]
    rfl
  · rw [exec_putc_idle c hp, State.putByte_full h]
    rfl

/-! ### ENDW (R164) -/

theorem exec_endw_elsewhere {s : State} (hp : s.phase ≠ .idle) : exec .endw s = .next (refusedState s 0x8002) :=
  State.gate_refused (decide_eq_false hp) fun s => s.commitWord.respond 0

theorem satSucc_below {n : Fin 14} (h : n.val < 12) : satSucc n = ⟨n.val + 1, by omega⟩ :=
  Fin.ext (Nat.min_eq_left (Nat.succ_le_succ h.le))

theorem satSucc_saturated {n : Fin 14} (h : 12 ≤ n.val) : satSucc n = 13 :=
  Fin.ext (Nat.min_eq_right (Nat.succ_le_succ h))

theorem State.commitWord_stores {s : State} (h : s.wcnt.val < 12) : s.commitWord =
    { s with ph := s.ph.set s.wcnt.val s.wbuf h, wcnt := ⟨s.wcnt.val + 1, by omega⟩, wbuf := Key.empty } := by
  rw [State.commitWord, commitSlot_stores h, satSucc_below h]

theorem State.commitWord_full {s : State} (h : 12 ≤ s.wcnt.val) :
    s.commitWord = { s with wcnt := 13, wbuf := Key.empty } := by
  rw [State.commitWord, commitSlot_full (Nat.not_lt.mpr h), satSucc_saturated h]

/-- Settles O14: in IDLE the word is stored while a slot is left, and the count saturates. -/
theorem endwCommitsTheWord : Obligations.EndwCommitsTheWord := by
  refine ⟨rfl, fun s hp h => ?_, fun s hp h => ?_, fun s => exec_endw_elsewhere,
    fun w hlo hhi => refusedIllegal_of_block (q := 3) hlo (Nat.lt_succ_of_le hhi)⟩
  · rw [exec_endw_idle hp, State.commitWord_stores h]
    rfl
  · rw [exec_endw_idle hp, State.commitWord_full h]
    rfl

/-! ### RDST (R165, R43) -/

/-- The layout of the status word as shifts and ors, whatever the fields hold. -/
theorem statusFields_toNat (wcnt errpos phase : BitVec 4) (cmderr : BitVec 1) (err : BitVec 2) :
    (0#1 ++ wcnt ++ cmderr ++ errpos ++ err ++ phase).toNat =
      wcnt.toNat <<< 11 ||| cmderr.toNat <<< 10 ||| errpos.toNat <<< 6 ||| err.toNat <<< 4 ||| phase.toNat := by
  iterate 5 rw [BitVec.toNat_append]
  simp [Nat.shiftLeft_or_distrib, ← Nat.shiftLeft_add]

/-- Each field is read back: with the fields below it taken off, it is the lowest one left. -/
theorem statusFields_extract (wcnt errpos phase : BitVec 4) (cmderr : BitVec 1) (err : BitVec 2) :
    (0#1 ++ wcnt ++ cmderr ++ errpos ++ err ++ phase).extractLsb' 11 4 = wcnt ∧
    (0#1 ++ wcnt ++ cmderr ++ errpos ++ err ++ phase).extractLsb' 10 1 = cmderr ∧
    (0#1 ++ wcnt ++ cmderr ++ errpos ++ err ++ phase).extractLsb' 6 4 = errpos ∧
    (0#1 ++ wcnt ++ cmderr ++ errpos ++ err ++ phase).extractLsb' 4 2 = err ∧
    (0#1 ++ wcnt ++ cmderr ++ errpos ++ err ++ phase).extractLsb' 0 4 = phase := by
  refine ⟨?_, ?_, ?_, ?_, ?_⟩ <;> (repeat rw [BitVec.extractLsb'_append_eq_of_le (by decide)]) <;>
    exact BitVec.extractLsb'_append_eq_right

theorem State.status_toNat (s : State) : s.status.toNat =
    s.wcnt.val <<< 11 ||| s.cmderr.toNat <<< 10 ||| s.errpos.val <<< 6 ||| (errCode s.err).toNat <<< 4 |||
      s.phase.code.toNat := by
  rw [State.status, statusWord, statusFields_toNat, BitVec.toNat_ofNat, BitVec.toNat_ofNat, BitVec.toNat_ofBool,
    Nat.mod_eq_of_lt (by omega), Nat.mod_eq_of_lt (by omega)]

theorem Phase.code_of_resting {p : Phase} (h : p.resting = true) : p.code = 0 ∨ p.code = 9 ∨ p.code = 10 := by
  cases p with
  | idle => exact .inl rfl
  | done => exact .inr (.inl rfl)
  | fail => exact .inr (.inr rfl)
  | _ => cases h

/-- Settles O17, field by field. -/
theorem rdstReadsTheStatusWord : Obligations.RdstReadsTheStatusWord :=
  ⟨rfl, fun _ => rfl, State.status_toNat,
    fun s => ⟨s.status_bit15, statusFields_extract ..⟩, fun _ => Phase.code_of_resting,
    fun _ hlo hhi => refusedIllegal_of_block (q := 6) hlo (Nat.lt_succ_of_le hhi)⟩

/-! ### RDOUT (R166) -/

theorem exec_rdout_elsewhere (i : BitVec 5) {s : State} (hp : s.phase ≠ .done) :
    exec (.rdout i) s = .next (refusedState s 0x8002) :=
  State.gate_refused (decide_eq_false hp) fun s => s.respond (s.out[i.toFin].setWidth 16)

theorem decodeCommand_rdout_or (i : BitVec 5) : decodeCommand (0x7000 ||| i.setWidth 16) = .ok (.rdout i) :=
  (congrArg decodeCommand (BitVec.append_def 0x380#11 i).symm).trans (decodeCommand_rdoutWord i)

theorem byteWord_toNat_le (b : Byte) : (b.setWidth 16).toNat ≤ 0x00FF := by
  rw [BitVec.toNat_setWidth_of_le (by decide)]
  exact Nat.le_of_lt_succ b.isLt

/-- In DONE the second sixteen bytes of the output are the first sixteen. -/
theorem State.Inv.out_add_sixteen {s : State} (h : s.Inv) (hp : s.phase = .done) {i : BitVec 5} (hi : i.toNat < 16) :
    s.out[(i + 16).toFin] = s.out[i.toFin] := by
  have hadd : (i + 16).toNat = i.toNat + 16 := by simp; omega
  calc s.out[(i + 16).toFin] = s.out[(i + 16).toNat] := rfl
    _ = s.out[i.toNat + 16] := getElem_congr_idx hadd
    _ = s.out[i.toFin] := h.halves hp ⟨i.toNat, hi⟩

/-- Settles O18; that the two halves answer alike is the invariant's. -/
theorem rdoutReadsAByte : Obligations.RdoutReadsAByte := by
  refine ⟨decodeCommand_rdout_or, fun s i hp => ⟨exec_rdout_done i hp, byteWord_toNat_le _⟩,
    fun s i => exec_rdout_elsewhere i, fun s i hinv hp hi => ?_,
    fun w hlo hhi => refusedIllegal_of_block (q := 7) hlo (Nat.lt_succ_of_le hhi)⟩
  rw [exec_rdout_done _ hp, exec_rdout_done _ hp, hinv.out_add_sixteen hp hi]

/-! ### The table of phases (R167) -/

theorem exec_of_not_allowed {i : Instr} {s : State} (hi : i.isCommand = true) (hw : i.wellFormed = true)
    (ha : allowedIn i s.phase = false) : exec i s = .next (refusedState s 0x8002) := by
  cases i with
  | putc c => exact exec_putc_elsewhere c (of_decide_eq_false ha)
  | endw => exact exec_endw_elsewhere (of_decide_eq_false ha)
  | resolve l =>
    obtain rfl : l = 0 := beq_iff_eq.mp hw
    exact exec_resolve_elsewhere (of_decide_eq_false ha)
  | decode => exact exec_decode_elsewhere (of_decide_eq_false ha)
  | rdout k => exact exec_rdout_elsewhere k (of_decide_eq_false ha)
  | nop | clr | rdst => cases ha
  | _ => cases hi

/-- A command that executes keeps `CMDERR` and gives one answer that is no refusal, but DECODE, which answers later. -/
theorem exec_of_allowed {i : Instr} {s : State} (hw : i.wellFormed = true) (ha : allowedIn i s.phase = true) :
    ∃ t, exec i s = .next t ∧ t.cmderr = s.cmderr ∧
      ((i = .decode ∧ t.rsps = s.rsps) ∨ ∃ v, t.rsps = s.rsps ++ [v] ∧ v.getLsbD 15 = false) := by
  cases i with
  | nop | clr => exact ⟨_, rfl, rfl, .inr ⟨0, rfl, rfl⟩⟩
  | putc c => exact ⟨_, exec_putc_idle c (of_decide_eq_true ha), rfl, .inr ⟨0, rfl, rfl⟩⟩
  | endw => exact ⟨_, exec_endw_idle (of_decide_eq_true ha), rfl, .inr ⟨0, rfl, rfl⟩⟩
  | resolve l =>
    obtain rfl : l = 0 := beq_iff_eq.mp hw
    exact ⟨_, exec_resolve_idle (of_decide_eq_true ha), rfl, .inr ⟨_, rfl, foundWord_bit15 _⟩⟩
  | decode => exact ⟨_, exec_decode_idle (of_decide_eq_true ha), rfl, .inl ⟨rfl, rfl⟩⟩
  | rdst => exact ⟨_, rfl, rfl, .inr ⟨_, rfl, s.status_bit15⟩⟩
  | rdout k => exact ⟨_, exec_rdout_done k (of_decide_eq_true ha), rfl, .inr ⟨_, rfl, byteWord_bit15 _⟩⟩
  | _ => cases ha

/-- Settles O19: every command executes where the table allows it and is refused where it does not. -/
theorem phaseTableGatesCommands : Obligations.PhaseTableGatesCommands := by
  intro i s hi hw _
  split
  next ha => exact exec_of_allowed hw ha
  next ha => exact exec_of_not_allowed hi hw (Bool.eq_false_of_not_eq_true ha)

end Sys2Proof.Machine

/-! PROOF. Exceptions: a state with nothing to do is held, a refusal changes only `CMDERR`, and the status word tells how
the last DECODE ended (R81, R181 to R183, R186, R193). -/

namespace Sys2Proof.Machine

/-! ### Nothing to do (R193) -/

/-- Settles O8. -/
theorem stepHoldsWithoutACommand : Obligations.StepHoldsWithoutACommand := by
  intro s hr hq hc
  rw [step_run hr, State.advance_resting (s := s.takeSample) hq, State.accept_nil (s := s.takeSample) hc]
  rfl

/-! ### Refusals (R81, R186) -/

/-- Settles O56: an answer with bit 15 cannot come from a step that refuses nothing. -/
theorem refusalsChangeOnlyCmderr : Obligations.RefusalsChangeOnlyCmderr := by
  intro s t v h hr hv hbit
  obtain ⟨c, rfl⟩ | hu := step_answer h hr
  · obtain rfl : c.response = v := List.singleton_inj.mp (List.append_cancel_left hv)
    exact ⟨c.response_cases, rfl⟩
  · exact absurd hv (hu.rsps_ne hbit)

/-! ### The registers behind the status word, when a DECODE has ended (R181 to R183) -/

theorem State.Inv.errpos_zero {s : State} (h : s.Inv) (he : s.err ≠ some .unknownWord) : s.errpos = 0 :=
  not_not.mp (mt h.errposUnknown he)

theorem State.Inv.err_none {s : State} (h : s.Inv) (hp : s.phase ≠ .fail) : s.err = none :=
  not_not.mp (mt h.errIffFail.mp hp)

theorem State.Inv.wcnt_done {s : State} (h : s.Inv) (hp : s.phase = .done) : s.wcnt = 12 :=
  Fin.ext (h.twelve (by simp [hp]) (by simp [hp]) (by simp [hp]))

theorem State.Inv.wcnt_fail {s : State} (h : s.Inv) (hp : s.phase = .fail) (he : s.err ≠ some .wordCount) :
    s.wcnt = 12 :=
  Fin.ext (not_not.mp (mt (h.countErr hp).mpr he))

theorem statusWord_wordCount : ∀ n : Fin 14,
    statusWord n false 0 (some .wordCount) .fail = (BitVec.ofNat 16 n.val <<< 11) ||| 0x001A := by decide

theorem statusWord_unknownWord : ∀ p : Fin 12,
    statusWord 12 false p (some .unknownWord) .fail = 0x6000 ||| (BitVec.ofNat 16 p.val <<< 6) ||| 0x002A := by decide

/-- Settles O57: the invariant fixes every field of the status word that the outcome does not leave open. -/
theorem statusTellsTheOutcome : Obligations.StatusTellsTheOutcome := by
  intro s h hc
  refine ⟨fun hp => ?done, fun hp he => ⟨?wordCount, (h.countErr hp).mp he⟩, fun hp he => ?unknownWord,
    fun hp he => ?checksum⟩
  case done =>
    have he : s.err = none := h.err_none (by simp [hp])
    rw [State.status, h.wcnt_done hp, hc, h.errpos_zero (by simp [he]), he, hp]
    rfl
  case wordCount =>
    rw [State.status, hc, h.errpos_zero (by simp [he]), he, hp, statusWord_wordCount]
  case unknownWord =>
    rw [State.status, h.wcnt_fail hp (by simp [he]), hc, he, hp, statusWord_unknownWord]
  case checksum =>
    rw [State.status, h.wcnt_fail hp (by simp [he]), hc, h.errpos_zero (by simp [he]), he, hp]
    rfl

end Sys2Proof.Machine

namespace Sys2Proof.Machine

/-! ### Hard reset (R200) -/

theorem State.hardReset_transientsZero (s : State) : s.hardReset.TransientsZero where
  idx := s.hardReset_idx
  bits := s.hardReset_bits
  eb := s.hardReset_eb
  widx := s.hardReset_widx

/-- A step without hard reset keeps a `CMDERR` that is set: a refusal sets it again, all else leaves it (R42). -/
theorem step_keeps_cmderr {s t : State} (h : step s = .next t) (hr : s.resetAsserted = false)
    (hc : s.cmderr = true) : t.cmderr = true := by
  obtain ⟨c, rfl⟩ | ⟨hkept, -⟩ := step_answer h hr
  · exact State.refuse_cmderr _ c
  · exact hkept.trans hc

/-- Settles O9: a step with hard reset ends in `State.hardReset`, and without it `CMDERR` is kept. -/
theorem hardResetClearsEveryRegister : Obligations.HardResetClearsEveryRegister := by
  refine ⟨fun s hr => ⟨s.takeSample.hardReset, step_reset hr, ?_⟩, fun s t h hset hclear => ?_⟩
  · simp [State.hardReset_transientsZero]
  · by_contra hr
    have hkept : t.cmderr = true := step_keeps_cmderr h (Bool.eq_false_of_not_eq_true hr) hset
    exact Bool.false_ne_true (hclear.symm.trans hkept)

end Sys2Proof.Machine
